-- ==== Sys2Proof/Word.lean ====
section
/-!
DEFINITION. The two word sizes of the block and the packet type: a *byte* (spec/00_scope.md R9: glyphs, pin
identifiers, packet bytes) and the 32-bit word of the packet's four-byte fields (spec/30_encoding.md R53).
-/

namespace Sys2Proof

/-- R9: "A *byte* is 8 bits ... bit 0 is the least significant bit". -/
abbrev Byte := BitVec 8

/-- The four-byte operand fields `VALUE_I`, `VALUE_D` and `DURATION` (R52, R53). -/
abbrev Word := BitVec 32

/-- R51: "A command packet is a sequence of bytes, byte 0 first". -/
abbrev Packet := List Byte

end Sys2Proof
end

