-- ==== Sys2Proof/Config.lean ====
section
/-!
DEFINITION. What an implementation fixes, and the free values of the spec. The build-time parameters of
spec/00_scope.md R7 that a model "takes as a configuration argument" form the structure `Params`, which stands in
State (log entry 5), so that every statement about every state is a statement about every value of them. The
constants without a body below are FREE VALUES: no proof can see what they are.
-/

namespace Sys2Proof

/-- R12: `POLARITY`, "0 = CommonCathode, 1 = CommonAnode". -/
inductive Polarity where
  | commonCathode
  | commonAnode
  deriving DecidableEq, Repr, Inhabited

/-- R7, R92: where the scan loop asks for the elapsed time. `perPass` is the value the spec takes, `perDigit` the
variant it keeps (92_eei_decisions.md D14). -/
inductive ExitCheck where
  | perPass
  | perDigit
  deriving DecidableEq, Repr, Inhabited

/-- R7: the build-time parameters whose values the source leaves open. The two read-only table spaces are laid out
by index as in spec/20_memory.md R31: in `glyph`, 0 to 9 are the digits, 10 to 35 the letters, 36 the minus and 37
the blank; in `sel`, index `i` is the one-hot select pattern of position `i`. -/
structure Params where
  glyph      : Vector Byte 38
  sel        : Vector Byte 8
  dpBit      : Byte
  povDelayMs : Nat
  exitCheck  : ExitCheck
  deriving DecidableEq, Repr

/-- R7: `MAX_DIGITS`. -/
abbrev Config.maxDigits : Nat := 8

/-- R7, D13: `POV_DELAY_MS` is OPEN ("hardware-tuned, e.g. a few milliseconds"): a free value (log entry 4). -/
opaque Config.povDelayMs : Nat

/-- R21: `TIME_MS` at power-up, "any natural number (a draw)": a free value (log entry 3). -/
opaque Config.timeAtPowerUp : Nat

/-- R21: what the clock agent adds to `TIME_MS` before step number `n`, where the platform inputs listed in State
have run out: "any natural number (including 0)". A free value of the step counter (log entry 2). -/
opaque Config.clockAdvance : Nat → Nat

/-! Reads of a register that holds no value. R12, R16, R17: no rule makes one; 93_implementation_defined.md U12:
"any value". The answer is a free value of the step counter (log entry 8). -/

/-- The answer of reading frame byte `k` while it holds no value, at step number `n`: `unspecifiedFrameByte n k`. -/
opaque Config.unspecifiedFrameByte : Nat → Nat → Byte

/-- The answer of reading a pin register (0 latch, 1 clock, 2 data) that holds no value: `unspecifiedPin n r`. -/
opaque Config.unspecifiedPin : Nat → Nat → Byte

/-- The answer of reading `POLARITY` while it holds no value. -/
opaque Config.unspecifiedPolarity : Nat → Polarity

/-- The answer of reading `DIGIT_COUNT` while it holds no value. -/
opaque Config.unspecifiedDigitCount : Nat → BitVec 4

/-- The answer of reading `T0` while it holds no value. -/
opaque Config.unspecifiedStamp : Nat → Nat

/-- The answer of reading `DUR` while it holds no value. -/
opaque Config.unspecifiedDuration : Nat → Word

end Sys2Proof
end

