-- ==== Sys2Proof/Syntax.lean ====
section
/-!
DEFINITION. The eight commands of the block (spec/30_encoding.md R49), one constructor per row of
spec/opcode_table.json, with the operands of the formats of R52 as R53 assembles them.
-/

namespace Sys2Proof

/-- One command. Operand order is packet order (R52). -/
inductive Instr where
  /-- `CONFIG latch, clock, data, pol, digits` (42_print_and_config.md R105). -/
  | config (latch clock data : Byte) (pol : Polarity) (digits : Byte)
  /-- `ENCI v` (40_encoder.md R70); `v` is read with `sext_32`. -/
  | enci (value : Word)
  /-- `ENCD q, p` (R73); the pattern is read as binary32 by R54. -/
  | encd (value : Word) (places : Byte)
  /-- `ENCT text` (R77), first character first. -/
  | enct (text : List Byte)
  /-- `RENDER f, dur` (41_scanner.md R85), position 0 first. -/
  | render (frame : List Byte) (dur : Word)
  /-- `PRINTI v, dur` (42_print_and_config.md R107). -/
  | printi (value dur : Word)
  /-- `PRINTD q, p, dur` (R108). -/
  | printd (value : Word) (places : Byte) (dur : Word)
  /-- `PRINTT text, dur` (R109). -/
  | printt (text : List Byte) (dur : Word)
  deriving DecidableEq, Repr

end Sys2Proof
end

