-- ==== Sys2Proof/Machine/Operands.lean ====
section
/-!
DEFINITION. Reading operands (spec/30_encoding.md R53, R54), the contract on them (R56, R105, R128), and the exact
arithmetic the encoder does on them (spec/40_encoder.md R68, R69, R72). Nothing here rounds, wraps or overflows.
-/

namespace Sys2Proof

/-- R53: the integer a `VALUE_I` field stands for, `sext_32`. -/
def intOperand (w : Word) : Int := w.toInt

/-- A rational `± num / den` held exactly (R72: "every rule works on the exact rational `q`"). `den` is positive
wherever the model builds one. -/
structure Decimal where
  sign : Bool
  num  : Nat
  den  : Nat
  deriving DecidableEq, Repr

/-- R54: the fields of a binary32 pattern, `e = zext(w[30:23])`. -/
def binary32Exponent (w : Word) : Nat := (w.extractLsb' 23 8).toNat

/-- R54: the fields of a binary32 pattern, `f = zext(w[22:0])`. -/
def binary32Fraction (w : Word) : Nat := (w.extractLsb' 0 23).toNat

/-- R54: "If `e = 255` (an infinity or a NaN) the operand has no value". -/
def binary32Finite (w : Word) : Bool := binary32Exponent w != 255

/-- R54: the exact value of a finite pattern: `(-1)^s * f * 2^(-149)` when `e = 0`, else
`(-1)^s * (2^23 + f) * 2^(e - 150)`. No meaning uses it on a pattern that is not finite. -/
def binary32Value (w : Word) : Decimal :=
  let e := binary32Exponent w
  let f := binary32Fraction w
  if e = 0 then ⟨w.getLsbD 31, f, 2 ^ 149⟩
  else ⟨w.getLsbD 31, (2 ^ 23 + f) * 2 ^ (e - 150), 2 ^ (150 - e)⟩

/-- `q < 0`. R54: both zeros give `q = 0`, "which is not negative". -/
def Decimal.isNeg (q : Decimal) : Bool := q.sign && q.num != 0

/-- R69 applied to the magnitude scaled as in R73: `rnd(|q| * 10^p) = floor(|q| * 10^p + 1/2)`. -/
def Decimal.scaled (q : Decimal) (p : Nat) : Nat := (2 * (q.num * 10 ^ p) + q.den) / (2 * q.den)

/-- R56, R105: `DIGITS` is "1 to 8 inside the contract". -/
def digitsInContract (digits : Byte) : Bool :=
  decide (1 ≤ digits.toNat) && decide (digits.toNat ≤ Config.maxDigits)

/-- R12, R56: the three pins are pairwise different. -/
def pinsDistinct (latch clock data : Byte) : Bool :=
  (latch != clock) && (latch != data) && (clock != data)

/-- R53: `DIGIT_COUNT` has four bits (R12) and takes the low four of the `DIGITS` byte. -/
def digitCountOperand (digits : Byte) : BitVec 4 := digits.setWidth 4

end Sys2Proof
end

