-- ==== Sys2Proof/WellFormed.lean ====
section
/-!
DEFINITION. Which terms of `Instr` are commands of the block. `encodable` is what the packet format can carry at all
(spec/30_encoding.md R52, R53: a `LEN` byte counts to 255). `wellFormed` adds the contract on the operands that does
not depend on the state (R56, R58, R128: U1, U2, U6, and U5 as far as it is one length for every configuration: a
frame has exactly N bytes with N in 1 to 8).
-/

namespace Sys2Proof

/-- R53: `LEN` is one byte, so a text or a frame of a packet has 0 to 255 bytes. -/
def lengthFitsLen (bytes : List Byte) : Bool := decide (bytes.length ≤ 255)

/-- The command has a packet (R52). -/
def Instr.encodable : Instr → Bool
  | .config _ _ _ _ _ => true
  | .enci _ => true
  | .encd _ _ => true
  | .enct text => lengthFitsLen text
  | .render frame _ => lengthFitsLen frame
  | .printi _ _ => true
  | .printd _ _ _ => true
  | .printt text _ => lengthFitsLen text

/-- R15, R56: a frame has exactly N bytes, N in 1 to 8. -/
def frameLengthPossible (frame : List Byte) : Bool :=
  decide (1 ≤ frame.length) && decide (frame.length ≤ Config.maxDigits)

/-- The command is inside the contract, as far as its operands alone say (R56, R58, R105). -/
def Instr.wellFormed : Instr → Bool
  | .config latch clock data _ digits => digitsInContract digits && pinsDistinct latch clock data
  | .enci _ => true
  | .encd value _ => binary32Finite value
  | .enct text => lengthFitsLen text
  | .render frame _ => frameLengthPossible frame
  | .printi _ _ => true
  | .printd value _ _ => binary32Finite value
  | .printt text _ => lengthFitsLen text

end Sys2Proof
end

