-- ==== Sys2Proof/Decode.lean ====
section
/-!
DEFINITION. Command packets (spec/30_encoding.md R49 to R58): the decoder, total on any list of bytes and rejecting
by name, and the encoder, both written from the opcode table of R49 and the format table of R52. The decoder
rejects what has no meaning as an encoding whatever the state: a reserved opcode, a packet of the wrong length
(U4) and a `POL` byte above 0x01 (U2). The contract on the other operands is checked where a command is accepted.
-/

namespace Sys2Proof

/-- Why a packet has no meaning (R58). -/
inductive DecodeError where
  /-- No byte at all: shorter than every format. -/
  | emptyPacket
  /-- An opcode byte other than the eight of R49. -/
  | reservedOpcode (opcode : Byte)
  /-- A packet shorter or longer than its format's length. -/
  | wrongLength
  /-- `POL` above 0x01. -/
  | reservedPolarity (pol : Byte)
  deriving DecidableEq, Repr

/-- The eight rows of R49, named by their mnemonics. -/
inductive Opcode where
  | config | enci | encd | enct | render | printi | printd | printt
  deriving DecidableEq, Repr

/-- R49: the opcode table. -/
def opcodeTable : List (Byte × Opcode) :=
  [(0x01#8, .config), (0x10#8, .enci), (0x11#8, .encd), (0x12#8, .enct),
   (0x20#8, .render), (0x30#8, .printi), (0x31#8, .printd), (0x32#8, .printt)]

/-- The row of an opcode byte, if it is one of the eight. -/
def opcodeOf (b : Byte) : Option Opcode := opcodeTable.lookup b

/-- R49: the opcode byte of a command. -/
def opcodeByte : Opcode → Byte
  | .config => 0x01#8
  | .enci => 0x10#8
  | .encd => 0x11#8
  | .enct => 0x12#8
  | .render => 0x20#8
  | .printi => 0x30#8
  | .printd => 0x31#8
  | .printt => 0x32#8

/-- R55: how the length of a packet is told from byte 0 and, for three formats, the `LEN` byte. -/
def packetLength (op : Opcode) (len : Byte) : Nat :=
  match op with
  | .config => 6
  | .enci => 5
  | .encd => 6
  | .enct => 2 + len.toNat
  | .render => 6 + len.toNat
  | .printi => 9
  | .printd => 10
  | .printt => 6 + len.toNat

/-- R53: a four-byte field, the byte at the lowest offset least significant. -/
def word32 (b0 b1 b2 b3 : Byte) : Word := b3 ++ b2 ++ b1 ++ b0

/-- R53: the four bytes of a field, lowest offset first. -/
def bytes32 (w : Word) : List Byte :=
  [w.extractLsb' 0 8, w.extractLsb' 8 8, w.extractLsb' 16 8, w.extractLsb' 24 8]

/-- A four-byte field that fills the rest of a packet. -/
def lastWord? : List Byte → Option Word
  | [b0, b1, b2, b3] => some (word32 b0 b1 b2 b3)
  | _ => none

/-- R53: `POL`, 0x00 = CommonCathode, 0x01 = CommonAnode. -/
def polarityOf (b : Byte) : Option Polarity :=
  if b = 0x00#8 then some .commonCathode else if b = 0x01#8 then some .commonAnode else none

/-- R53: the `POL` byte. -/
def polarityByte : Polarity → Byte
  | .commonCathode => 0x00#8
  | .commonAnode => 0x01#8

/-- Format C (R52), the bytes after the opcode. -/
def decodeC : List Byte → Except DecodeError Instr
  | [latch, clock, data, pol, digits] =>
    match polarityOf pol with
    | some p => .ok (.config latch clock data p digits)
    | none => .error (.reservedPolarity pol)
  | _ => .error .wrongLength

/-- Format I (R52). -/
def decodeI : List Byte → Except DecodeError Instr
  | [b0, b1, b2, b3] => .ok (.enci (word32 b0 b1 b2 b3))
  | _ => .error .wrongLength

/-- Format D (R52). -/
def decodeD : List Byte → Except DecodeError Instr
  | [b0, b1, b2, b3, places] => .ok (.encd (word32 b0 b1 b2 b3) places)
  | _ => .error .wrongLength

/-- Format T (R52). -/
def decodeT : List Byte → Except DecodeError Instr
  | len :: chars => if chars.length = len.toNat then .ok (.enct chars) else .error .wrongLength
  | [] => .error .wrongLength

/-- Format R (R52). -/
def decodeR : List Byte → Except DecodeError Instr
  | len :: rest =>
    match lastWord? (rest.drop len.toNat) with
    | some dur => .ok (.render (rest.take len.toNat) dur)
    | none => .error .wrongLength
  | [] => .error .wrongLength

/-- Format IP (R52). -/
def decodeIP : List Byte → Except DecodeError Instr
  | [b0, b1, b2, b3, d0, d1, d2, d3] => .ok (.printi (word32 b0 b1 b2 b3) (word32 d0 d1 d2 d3))
  | _ => .error .wrongLength

/-- Format DP (R52). -/
def decodeDP : List Byte → Except DecodeError Instr
  | [b0, b1, b2, b3, places, d0, d1, d2, d3] =>
    .ok (.printd (word32 b0 b1 b2 b3) places (word32 d0 d1 d2 d3))
  | _ => .error .wrongLength

/-- Format TP (R52). -/
def decodeTP : List Byte → Except DecodeError Instr
  | len :: rest =>
    match lastWord? (rest.drop len.toNat) with
    | some dur => .ok (.printt (rest.take len.toNat) dur)
    | none => .error .wrongLength
  | [] => .error .wrongLength

/-- R52: the operands of each format. -/
def decodeOperands : Opcode → List Byte → Except DecodeError Instr
  | .config => decodeC
  | .enci => decodeI
  | .encd => decodeD
  | .enct => decodeT
  | .render => decodeR
  | .printi => decodeIP
  | .printd => decodeDP
  | .printt => decodeTP

/-- The decoder: a whole packet (R55: "A packet is presented whole on the `CMD` port"), or why it has no meaning. -/
def decode : Packet → Except DecodeError Instr
  | [] => .error .emptyPacket
  | op :: operands =>
    match opcodeOf op with
    | some o => decodeOperands o operands
    | none => .error (.reservedOpcode op)

/-- R53: the `LEN` byte of a text or a frame. -/
def lenByte (bytes : List Byte) : Byte := BitVec.ofNat 8 bytes.length

/-- The encoder: the packet of a command (R52, R53). -/
def encode : Instr → Packet
  | .config latch clock data pol digits =>
    [opcodeByte .config, latch, clock, data, polarityByte pol, digits]
  | .enci value => opcodeByte .enci :: bytes32 value
  | .encd value places => opcodeByte .encd :: (bytes32 value ++ [places])
  | .enct text => opcodeByte .enct :: lenByte text :: text
  | .render frame dur => opcodeByte .render :: lenByte frame :: (frame ++ bytes32 dur)
  | .printi value dur => opcodeByte .printi :: (bytes32 value ++ bytes32 dur)
  | .printd value places dur => opcodeByte .printd :: (bytes32 value ++ places :: bytes32 dur)
  | .printt text dur => opcodeByte .printt :: lenByte text :: (text ++ bytes32 dur)

/-- Byte `i` of a packet whose bits are numbered as in R51: "the field at offset `o` of width `w` bytes occupies
packet bits `8*o` to `8*(o+w)-1`". -/
def tableByte (w i : Nat) : Byte := BitVec.ofNat 8 (w / 256 ^ i)

/-- The packet whose bits are the low `nbits` bits of `w`, every higher bit 0, cut where R55 says it ends. -/
def packetOfTableWord (nbits w : Nat) : Packet :=
  let v := w % 2 ^ nbits
  let n := match opcodeOf (tableByte v 0) with
    | some op => packetLength op (tableByte v 1)
    | none => 1
  (List.range n).map (tableByte v)

/-- The command the decoder reads from a word of spec/opcode_table.json. -/
def decodeTableWord (nbits w : Nat) : Option Instr :=
  match decode (packetOfTableWord nbits w) with
  | .ok i => some i
  | .error _ => none

end Sys2Proof
end

