-- ==== Sys2Proof/Machine/Tables.lean ====
section
/-!
DEFINITION. The read-only table spaces of the block (spec/20_memory.md R30 to R39): the one access primitive, the
named tables over it, and the default contents. The block has no read-write memory (R23, R30).
-/

namespace Sys2Proof

/-- R31: the two address spaces. -/
inductive Space where
  | glyph
  | sel
  deriving DecidableEq, Repr

/-- R31: how many indices of a space exist. -/
def Space.size : Space → Nat
  | .glyph => 38
  | .sel => 8

/-- R32: `MemRead(space, index, 1)`, the one access primitive: one byte, no side effect. R33: "A model may therefore
type the indices as bounded". -/
def memRead (p : Params) (space : Space) (index : Fin space.size) : Byte :=
  match space, index with
  | .glyph, i => p.glyph.get i
  | .sel, i => p.sel.get i

/-- `GLYPH_DIGIT[d]` (R31, R36). -/
def glyphDigit (p : Params) (d : Fin 10) : Byte :=
  memRead p .glyph ⟨d.val, Nat.lt_of_lt_of_le d.isLt (by decide)⟩

/-- `GLYPH_LETTER[l]` at index `10 + l` (R31, R37). -/
def glyphLetter (p : Params) (l : Fin 26) : Byte :=
  memRead p .glyph ⟨10 + l.val, Nat.lt_of_lt_of_le (Nat.add_lt_add_left l.isLt 10) (by decide)⟩

/-- `GLYPH_MINUS` (R31, R38). -/
def glyphMinus (p : Params) : Byte := memRead p .glyph ⟨36, by decide⟩

/-- `GLYPH_BLANK` (R31, R38). -/
def glyphBlank (p : Params) : Byte := memRead p .glyph ⟨37, by decide⟩

/-- `SEL[i]` (R31, R39). -/
def selEntry (p : Params) (i : Fin 8) : Byte := memRead p .sel i

/-- R36: the default digit table. -/
def defaultDigits : Vector Byte 10 :=
  #v[0x3F#8, 0x06#8, 0x5B#8, 0x4F#8, 0x66#8, 0x6D#8, 0x7D#8, 0x07#8, 0x7F#8, 0x6F#8]

/-- R37: the default letter table, A to Z. -/
def defaultLetters : Vector Byte 26 :=
  #v[0x77#8, 0x7C#8, 0x39#8, 0x5E#8, 0x79#8, 0x71#8, 0x3D#8, 0x76#8, 0x30#8, 0x1E#8, 0x75#8, 0x38#8, 0x15#8,
     0x54#8, 0x3F#8, 0x73#8, 0x67#8, 0x50#8, 0x6D#8, 0x78#8, 0x3E#8, 0x1C#8, 0x2A#8, 0x76#8, 0x6E#8, 0x5B#8]

/-- R38: `GLYPH_MINUS = 0x40`, `GLYPH_BLANK = 0x00`. -/
def defaultMinusBlank : Vector Byte 2 := #v[0x40#8, 0x00#8]

/-- R39: `SEL[i] = 1 << i`. -/
def defaultSel : Vector Byte 8 := #v[0x01#8, 0x02#8, 0x04#8, 0x08#8, 0x10#8, 0x20#8, 0x40#8, 0x80#8]

/-- The parameters with the default tables of R36 to R39, `DP_BIT = 0x80` (R38), `EXIT_CHECK = PerPass` (R7, R92)
and the given hold time. -/
def defaultParams (povDelayMs : Nat) : Params where
  glyph := defaultDigits ++ defaultLetters ++ defaultMinusBlank
  sel := defaultSel
  dpBit := 0x80#8
  povDelayMs := povDelayMs
  exitCheck := .perPass

end Sys2Proof
end

