-- ==== Sys2Proof/Machine/Frame.lean ====
section
/-!
DEFINITION. The encoder's pure functions (spec/40_encoder.md R65 to R80): digit layout, decimal point, character map
and polarity normalization. Every frame is a list of bytes, position 0 (leftmost) first. `n` is `DIGIT_COUNT`.
-/

namespace Sys2Proof

/-- R9: `ndigits(m)` with a bound on the number of digits; `ndigits(0) = 1`. -/
def ndigitsBounded : Nat → Nat → Nat
  | 0, _ => 1
  | bound + 1, m => if m < 10 then 1 else 1 + ndigitsBounded bound (m / 10)

/-- R9: `ndigits(m)`, the number of decimal digits of `m`; a natural has no more decimal than binary digits. -/
def ndigits (m : Nat) : Nat := ndigitsBounded (Nat.log2 m) m

/-- R9: `digit(m, j) = (m div 10^j) mod 10`. -/
def digit (m j : Nat) : Nat := m / 10 ^ j % 10

/-- `GLYPH_DIGIT[m mod 10]` (R84). -/
def glyphOfUnits (p : Params) (m : Nat) : Byte := glyphDigit p (Fin.ofNat 10 m)

/-- R67: what slot `N-1-j`, counted `j` from the right, holds. -/
def layoutSlot (p : Params) (neg : Bool) (m mind j : Nat) : Byte :=
  let w := max (ndigits m) mind
  if j < w then glyphOfUnits p (digit m j)
  else if j = w ∧ neg then glyphMinus p
  else glyphBlank p

/-- R66, in the closed form of R67: the common-cathode frame `Layout(neg, m, mind, N)`. -/
def layout (p : Params) (neg : Bool) (m mind n : Nat) : List Byte :=
  (List.range n).map fun k => layoutSlot p neg m mind (n - 1 - k)

/-- R66: the loop's state: the frame `G`, how many slots are still free (the loop's `k + 1`), and the digits not yet
produced. -/
structure LayoutState where
  frame : List Byte
  free  : Nat
  rest  : Nat
  deriving DecidableEq, Repr

/-- R66: one turn of the `repeat`: "if k >= 0" the units digit goes to the next free slot, otherwise it is dropped. -/
def layoutTurn (p : Params) (st : LayoutState) : LayoutState :=
  match st.free with
  | 0 => { st with rest := st.rest / 10 }
  | k + 1 => { frame := st.frame.set k (glyphOfUnits p st.rest), free := k, rest := st.rest / 10 }

/-- R66: the `repeat ... until m = 0 and j >= mind`, after `j` turns, at most `turns` more. -/
def layoutRepeat (p : Params) (mind : Nat) : Nat → Nat → LayoutState → LayoutState
  | 0, _, st => st
  | turns + 1, j, st =>
    let st' := layoutTurn p st
    if st'.rest = 0 ∧ mind ≤ j + 1 then st' else layoutRepeat p mind turns (j + 1) st'

/-- R66: `Layout` as the loop the spec writes. The bound on the turns is never met first (it exceeds both the number
of digits and `mind`). -/
def layoutLoop (p : Params) (neg : Bool) (m mind n : Nat) : List Byte :=
  let st := layoutRepeat p mind (Nat.log2 m + mind + 1) 0 ⟨List.replicate n (glyphBlank p), n, m⟩
  match neg, st.free with
  | true, k + 1 => st.frame.set k (glyphMinus p)
  | _, _ => st.frame

/-- R70: the common-cathode frame of ENCI, `Layout(v < 0, |v|, 1, N)`. -/
def integerFrame (p : Params) (v : Int) (n : Nat) : List Byte :=
  layout p (decide (v < 0)) v.natAbs 1 n

/-- R73: the common-cathode frame of ENCD before the decimal point. -/
def decimalDigits (p : Params) (q : Decimal) (places n : Nat) : List Byte :=
  if places = 0 then
    let r := q.scaled 0
    layout p (q.isNeg && decide (0 < r)) r 1 n
  else layout p q.isNeg (q.scaled places) (places + 1) n

/-- R73, R74: the common-cathode frame of ENCD: the point is ORed onto position `N - p - 1`, "only if
`decimalPlaces < digitCount`", and never when `p = 0`. -/
def decimalFrame (p : Params) (q : Decimal) (places n : Nat) : List Byte :=
  let g := decimalDigits p q places n
  if 0 < places ∧ places < n then g.modify (n - places - 1) (· ||| p.dpBit) else g

/-- R78: the character map. -/
def glyphOf (p : Params) (c : Byte) : Byte :=
  if 0x41 ≤ c.toNat ∧ c.toNat ≤ 0x5A then glyphLetter p (Fin.ofNat 26 (c.toNat - 0x41))
  else if 0x61 ≤ c.toNat ∧ c.toNat ≤ 0x7A then glyphLetter p (Fin.ofNat 26 (c.toNat - 0x61))
  else if 0x30 ≤ c.toNat ∧ c.toNat ≤ 0x39 then glyphDigit p (Fin.ofNat 10 (c.toNat - 0x30))
  else if c.toNat = 0x2D then glyphMinus p
  else glyphBlank p

/-- R77: the common-cathode frame of ENCT: left-aligned, cut at N characters, blank-filled on the right. -/
def textFrame (p : Params) (text : List Byte) (n : Nat) : List Byte :=
  (List.range n).map fun k =>
    match text[k]? with
    | some c => glyphOf p c
    | none => glyphBlank p

/-- R80: one byte of `Normalize`: complemented exactly when the polarity is common-anode. -/
def normalizeByte : Polarity → Byte → Byte
  | .commonCathode, b => b
  | .commonAnode, b => ~~~b

/-- R80: `Normalize(G)`, "every byte is inverted, the blank slots included". -/
def normalizeFrame (pol : Polarity) (g : List Byte) : List Byte := g.map (normalizeByte pol)

end Sys2Proof
end

