-- ==== Sys2Proof/Machine/State.lean ====
section
/-!
DEFINITION. The state of the block and of the environment the rules speak of (spec/10_state.md), as plain data, the
reasons a step can stop, and the state right after power-up and reset (spec/70_reset_and_hazards.md R135).

A register that holds NO VALUE (R12, R16, R17, R20: "a model holds `none`", "a model sets them to `none`") is an
`Option`: holding no value is the spec's own state of these registers, at reset and again whenever a command has
completed (log entry 8). Reading one is no fault: the accessors of Machine/Ops.lean answer a free value.
-/

namespace Sys2Proof.Machine

/-- R19: the three output lines. -/
inductive Line where
  | latch
  | clock
  | data
  deriving DecidableEq, Repr

/-- R19: "each holding one of `Low`, `High` or `Undriven`". -/
inductive Level where
  | low
  | high
  | undriven
  deriving DecidableEq, Repr

/-- R9: the bit order of a `ShiftOut`. -/
inductive BitOrder where
  | lsbFirst
  | msbFirst
  deriving DecidableEq, Repr

/-- R18: the fifteen values of `PHASE`. -/
inductive Phase where
  | idle
  | encode
  | rStamp
  | rCheck
  | rLatchLo
  | rShiftSel
  | rShiftSeg
  | rLatchHi
  | rHold
  | bLatchLo
  | bShift1
  | bShift2
  | bLatchHi
  | respond
  | done
  deriving DecidableEq, Repr

/-- R18: the sequencer state `SEQ = (PHASE, POS, BITCNT)`; `POS` has 3 bits, `BITCNT` runs from 0 to 8. -/
structure Seq where
  phase  : Phase
  pos    : Fin 8
  bitcnt : Fin 9
  deriving DecidableEq, Repr

/-- R20, R100: sixteen one-bit stages of the chain, index 0 the stage nearest the block. A stage whose content no
rule gives holds `none` (R20; 95_test_vectors.md program P5 writes such a stage `x`). -/
abbrev Stages := Vector (Option Bool) 16

/-- R9, R95, R125: an event the block emits. A call of a primitive carries the pin identifiers the block passes (R86,
R87) and the answer it got (R88). -/
inductive Event where
  /-- `SetLevel(line, lvl)`, with the configured identifier of the line. -/
  | setLevel (line : Line) (pin : Byte) (level : Level)
  /-- `ShiftOut(order, value)`, with the configured data and clock pins. -/
  | shiftOut (dataPin clockPin : Byte) (order : BitOrder) (value : Byte)
  /-- `Stamp()` and its answer. -/
  | stamp (answer : Nat)
  /-- `Elapsed(T0)` and its answer. -/
  | elapsed (answer : Nat)
  /-- `Sleep(ms)`. -/
  | sleep (ms : Nat)
  /-- `F[0..N-1]` presented on `RSP_FRAME` (R57). -/
  | rspFrame (frame : List Byte)
  /-- A pulse of `RSP_DONE` (R57). -/
  | rspDone
  deriving DecidableEq, Repr

/-- What the platform and the clock agent do before one step of the block: the milliseconds the clock advances (R10,
R21) and whether `RESET` is asserted (R22). -/
structure PlatformInput where
  advanceMs : Nat
  reset     : Bool
  deriving DecidableEq, Repr

/-- R115: "no step of the block has a fault outcome". There is no fault, so this type has no constructor. -/
inductive Fault where
  deriving DecidableEq, Repr

/-- Why the model gives an input no meaning (R58, R128: "statements about the model, not behaviours of the
hardware"). Every constructor is safe: the model stops where the spec states no behaviour. -/
inductive Refusal where
  /-- Raised by an arm of `exec` whose instruction has no meaning yet; no arm is left. Safe. -/
  | notModelled (mnemonic : String)
  /-- U4: raised by the fetch on an opcode byte that is not one of the eight. Safe. -/
  | reservedOpcode (opcode : Byte)
  /-- U4: raised by the fetch on a packet shorter or longer than its format. Safe. -/
  | wrongLength
  /-- U2: raised by the fetch on a `POL` byte above 0x01. Safe. -/
  | reservedPolarity (pol : Byte)
  /-- U1: raised by CONFIG when `digits` is outside 1 to 8. Safe. -/
  | digitsOutOfRange
  /-- U2: raised by CONFIG when two pin identifiers are equal. Safe. -/
  | pinsNotDistinct
  /-- U3: raised by every command but CONFIG while `CONFIGURED = 0`. Safe. -/
  | notConfigured
  /-- U3: raised by CONFIG while `CONFIGURED = 1`. Safe. -/
  | alreadyConfigured
  /-- U5: raised by RENDER when the frame length is not N. Safe. -/
  | frameLengthMismatch
  /-- U6: raised by ENCD and PRINTD on an infinity or a NaN. Safe. -/
  | nonFiniteDecimal
  /-- Raised by the step in phase ENCODE when no command is latched; no run reaches such a state (log entry 10).
  Safe. -/
  | noLatchedCommand
  deriving DecidableEq, Repr

/-- The state. The comment at each field names its rule in spec/10_state.md; INVENTORY.md lists them all. -/
structure State where
  /-- R7, R30: the build-time parameters and the read-only tables. No step changes them. -/
  params       : Params
  /-- R12 `LATCH_PIN`. -/
  latchPin     : Option Byte
  /-- R12 `CLOCK_PIN`. -/
  clockPin     : Option Byte
  /-- R12 `DATA_PIN`. -/
  dataPin      : Option Byte
  /-- R12 `POLARITY`. -/
  polarity     : Option Polarity
  /-- R12 `DIGIT_COUNT`, written `N`. -/
  digitCount   : Option (BitVec 4)
  /-- R14 `CONFIGURED`. -/
  configured   : Bool
  /-- R14 `BUSY`. -/
  busy         : Bool
  /-- R15 `F[0..7]`. -/
  f            : Vector (Option Byte) 8
  /-- R17 `T0`. -/
  t0           : Option Nat
  /-- R17 `DUR`. -/
  dur          : Option Word
  /-- R21, R89: the sleep in progress: `TIME_MS` at its start, `none` where the block does not sleep (log entry 12). -/
  sleepStart   : Option Nat
  /-- R18 `SEQ`. -/
  seq          : Seq
  /-- R96: the operands latched on acceptance, until the encode step consumes them (log entry 10). -/
  latched      : Option Instr
  /-- R19 `LATCH`. -/
  latch        : Level
  /-- R19 `CLOCK`. -/
  clock        : Level
  /-- R19 `DATA`. -/
  data         : Level
  /-- R22, R135 `RSP_FRAME`. -/
  rspFrame     : Option (List Byte)
  /-- R22, R135 `RSP_DONE`. -/
  rspDone      : Bool
  /-- R20 `SR`, the chain's shift stages. -/
  sr           : Stages
  /-- R20 `OUT`, the chain's parallel outputs. -/
  out          : Stages
  /-- R21 `TIME_MS`. -/
  timeMs       : Nat
  /-- R10, R22: the packets the host has still to issue, in order; `CMD` presents the first (log entry 1). -/
  hostProgram  : List Packet
  /-- R21, R22: what the clock agent and the platform do before the next steps (log entries 2 and 17). -/
  platform     : List PlatformInput
  /-- The model's own: how many steps have been taken; the free values are drawn by it (log entry 2). -/
  ticks        : Nat
  /-- R95, R125: the events emitted so far, the newest first (log entry 14). -/
  trace        : List Event
  deriving DecidableEq, Repr

/-- R135, on top of a power-up (R20, R21): what State holds before the first step. -/
def State.reset : State where
  params := defaultParams Config.povDelayMs
  latchPin := none
  clockPin := none
  dataPin := none
  polarity := none
  digitCount := none
  configured := false
  busy := false
  f := Vector.replicate 8 none
  t0 := none
  dur := none
  sleepStart := none
  seq := ⟨.idle, 0, 0⟩
  latched := none
  latch := .undriven
  clock := .undriven
  data := .undriven
  rspFrame := none
  rspDone := false
  sr := Vector.replicate 16 none
  out := Vector.replicate 16 none
  timeMs := Config.timeAtPowerUp
  hostProgram := []
  platform := []
  ticks := 0
  trace := []

end Sys2Proof.Machine
end

