-- ==== Sys2Proof/Machine/Flags.lean ====
section
/-!
DEFINITION. The two status bits (spec/10_state.md R14) and the acceptance of commands they gate
(spec/42_print_and_config.md R112). The block has no condition codes and no flag that a command's result writes
(R14), so there is no flag computation to give.
-/

namespace Sys2Proof.Machine

/-- R22: `CMD_READY = not BUSY`. -/
def State.cmdReady (s : State) : Bool := !s.busy

/-- R96, row IDLE: the sequencer can accept a command: it waits in `IDLE` and `BUSY = 0`. -/
def State.accepting (s : State) : Bool := decide (s.seq.phase = .idle) && s.cmdReady

end Sys2Proof.Machine
end

