-- ==== Sys2Proof/Machine/Ops.lean ====
section
/-!
DEFINITION. The shared operations over the state: reading and writing registers, driving the lines with the chain's
reaction (spec/41_scanner.md R86, R99 to R101), emitting events, the start of a step, and reset
(spec/70_reset_and_hazards.md R135). The block takes no exception and returns from none
(spec/60_exceptions.md R115, R118), so there is no exception entry among them.
-/

namespace Sys2Proof.Machine

/-! ### Reading registers -/

/-- `N`, the value of `DIGIT_COUNT` (R13). -/
def State.n (s : State) : Nat := (s.digitCount.getD (Config.unspecifiedDigitCount s.ticks)).toNat

/-- The value of `POLARITY`. -/
def State.pol (s : State) : Polarity := s.polarity.getD (Config.unspecifiedPolarity s.ticks)

/-- The identifier of a line's pin: "`pinId` the configured identifier of `line`" (R9). -/
def State.pin (s : State) : Line → Byte
  | .latch => s.latchPin.getD (Config.unspecifiedPin s.ticks 0)
  | .clock => s.clockPin.getD (Config.unspecifiedPin s.ticks 1)
  | .data => s.dataPin.getD (Config.unspecifiedPin s.ticks 2)

/-- The value of `F[k]`. -/
def State.frameByte (s : State) (k : Fin 8) : Byte :=
  (s.f.get k).getD (Config.unspecifiedFrameByte s.ticks k.val)

/-- `F[0..N-1]`, position 0 first. -/
def State.frame (s : State) : List Byte := ((List.finRange 8).take s.n).map s.frameByte

/-- The value of `T0`. -/
def State.stampValue (s : State) : Nat := s.t0.getD (Config.unspecifiedStamp s.ticks)

/-- The value of `DUR` in milliseconds (R53: `zext_32`). -/
def State.durMs (s : State) : Nat := (s.dur.getD (Config.unspecifiedDuration s.ticks)).toNat

/-! ### Writing registers -/

/-- `for k in 0..length-1: F[k] <- g_k`; the other frame bytes keep what they hold (R15). -/
def writeFrame (f : Vector (Option Byte) 8) (g : List Byte) : Vector (Option Byte) 8 :=
  Vector.ofFn fun k : Fin 8 =>
    match g[k.val]? with
    | some b => some b
    | none => f.get k

/-- `F[0..N-1] <- g`. -/
def State.loadFrame (g : List Byte) (s : State) : State := { s with f := writeFrame s.f g }

/-- The sequencer moves to a phase, with `BITCNT = 0` (R96). -/
def State.goto (ph : Phase) (s : State) : State :=
  { s with seq := { s.seq with phase := ph, bitcnt := 0 } }

/-- An event is emitted (R9: "each an *event* the block emits in order"). -/
def State.emit (e : Event) (s : State) : State := { s with trace := e :: s.trace }

/-! ### The lines and the chain -/

/-- R100: `SR <- {SR[14:0], d}`. -/
def shiftIn (d : Bool) (sr : Stages) : Stages :=
  Vector.ofFn fun k : Fin 16 => if h : k.val = 0 then some d else sr.get ⟨k.val - 1, by omega⟩

/-- A line takes a level, and the chain reacts to the edge: on a Low-to-High transition of `CLOCK` it shifts in
`DATA` (R100), on one of `LATCH` it copies `SR` to `OUT` (R101). A change from `Undriven` is no edge
(93_implementation_defined.md U15). -/
def State.drive (line : Line) (level : Level) (s : State) : State :=
  match line with
  | .latch => { s with latch := level, out := if s.latch = .low ∧ level = .high then s.sr else s.out }
  | .clock =>
    { s with clock := level,
             sr := if s.clock = .low ∧ level = .high then shiftIn (decide (s.data = .high)) s.sr else s.sr }
  | .data => { s with data := level }

/-- R86: the event `SetLevel(line, lvl)`. -/
def State.setLevel (line : Line) (level : Level) (s : State) : State :=
  (s.drive line level).emit (.setLevel line (s.pin line) level)

/-- R99: bit `n` of a shifted byte, in time order: `v[n]` or `v[7 - n]`. -/
def wireBit (order : BitOrder) (v : Byte) (n : Nat) : Bool :=
  match order with
  | .lsbFirst => v.getLsbD n
  | .msbFirst => v.getLsbD (7 - n)

/-- R99: the level of `DATA` for a bit. -/
def levelOfBit : Bool → Level
  | true => .high
  | false => .low

/-- R99: one bit on the lines: `DATA`, then `CLOCK` High, then `CLOCK` Low. -/
def State.pulse (b : Bool) (s : State) : State :=
  ((s.drive .data (levelOfBit b)).drive .clock .high).drive .clock .low

/-- R99, R87: one pin-level step of `ShiftOut(order, v)`: while `BITCNT` is below 8 the next bit goes out; when it is
8 the event is complete and the sequencer moves on (log entry 11). -/
def State.shiftStep (order : BitOrder) (v : Byte) (after : Phase) (s : State) : State :=
  if h : s.seq.bitcnt.val < 8 then
    let t := s.pulse (wireBit order v s.seq.bitcnt.val)
    { t with seq := { t.seq with bitcnt := ⟨s.seq.bitcnt.val + 1, by omega⟩ } }
  else (s.emit (.shiftOut (s.pin .data) (s.pin .clock) order v)).goto after

/-! ### Sleeping -/

/-- R21, R89: `Sleep` begins; its start is the time now. -/
def State.beginSleep (s : State) : State := { s with sleepStart := some s.timeMs }

/-- R21: "`Sleep(d)` completes only once `TIME_MS` is at least its value at the start of the sleep plus `d`"; the block
sleeps `POV_DELAY_MS` only (R89). Where no sleep is in progress there is nothing to wait for (log entry 12). -/
def State.sleepOver (s : State) : Bool :=
  s.sleepStart.all fun start => decide (start + s.params.povDelayMs ≤ s.timeMs)

/-! ### The start of a step, and reset -/

/-- What the clock agent and the platform do before this step; where the list has run out the clock's advance is a
free value and `RESET` is not asserted (log entries 2 and 17). -/
def State.nextInput (s : State) : PlatformInput :=
  match s.platform with
  | i :: _ => i
  | [] => ⟨Config.clockAdvance s.ticks, false⟩

/-- The clock agent's advance of `TIME_MS` (R21), and the end of an `RSP_DONE` pulse with the frame presented beside
it (R57, log entry 13). -/
def State.beginStep (s : State) : State :=
  { s with timeMs := s.timeMs + s.nextInput.advanceMs, platform := s.platform.tail, ticks := s.ticks + 1,
           rspDone := false, rspFrame := if s.rspDone then none else s.rspFrame }

/-- R135: `RESET`. The chain, the clock and the tables are not changed; a command in flight is abandoned without
blanking. -/
def State.assertReset (s : State) : State :=
  { s with latchPin := none, clockPin := none, dataPin := none, polarity := none, digitCount := none,
           configured := false, busy := false, f := Vector.replicate 8 none, t0 := none, dur := none,
           sleepStart := none, seq := ⟨.idle, 0, 0⟩, latched := none, latch := .undriven, clock := .undriven, data := .undriven,
           rspFrame := none, rspDone := false }

/-! ### Acceptance and the encode step -/

/-- R96, row IDLE for a command that encodes: accept it, `BUSY <- 1`, latch its operands. -/
def State.accept (i : Instr) (s : State) : State :=
  { s with busy := true, latched := some i, seq := { s.seq with phase := .encode, bitcnt := 0 } }

/-- R96, row ENCODE: the frame is written and the operands are consumed (R23); an encode-only command goes on to
`RESPOND`, a PRINT sets `DUR` and goes on to `R_STAMP`. -/
def State.finishEncode (frame : List Byte) (dur : Option Word) (s : State) : State :=
  match dur with
  | none => { s with f := writeFrame s.f frame, latched := none,
                     seq := { s.seq with phase := .respond, bitcnt := 0 } }
  | some d => { s with f := writeFrame s.f frame, latched := none, dur := some d,
                       seq := { s.seq with phase := .rStamp, bitcnt := 0 } }

/-- What every command that encodes shares. Offered where the block accepts (R112) it is accepted, unless the block
is not configured (U3) or the operand is outside the contract (`stop`); in `ENCODE`, latched, it writes its frame;
anywhere else it is not accepted and "has no effect at all" (R112, log entry 15). -/
def runEncoder (i : Instr) (stop : Option Refusal) (frame : List Byte) (dur : Option Word) (s : State) :
    Host.Outcome State Fault Refusal :=
  if s.accepting then
    if s.configured then
      match stop with
      | some r => .refused r
      | none => .next (s.accept i)
    else .refused .notConfigured
  else if s.seq.phase = .encode ∧ s.latched = some i then
    match stop with
    | some r => .refused r
    | none => .next (s.finishEncode frame dur)
  else .next s

/-- U6: the operand of ENCD and PRINTD must be finite. -/
def decimalStop (value : Word) : Option Refusal :=
  if binary32Finite value then none else some .nonFiniteDecimal

/-! ### The `CMD` port -/

/-- R22: the packet on `CMD`, if `CMD_VALID`, and the state once it has been taken. -/
def State.fetch (s : State) : Option (Packet × State) :=
  match s.hostProgram with
  | p :: rest => some (p, { s with hostProgram := rest })
  | [] => none

end Sys2Proof.Machine
end

