-- ==== Sys2Proof/Machine/Encode.lean ====
section
/-!
DEFINITION. The encode-only commands ENCI, ENCD and ENCT (spec/40_encoder.md R70, R73, R77). Each is one call of the
shared acceptance and encode step with its own frame.
-/

namespace Sys2Proof.Machine

/-- R70: the finished frame of an integer, for the configuration in force. -/
def State.integerF (value : Word) (s : State) : List Byte :=
  normalizeFrame s.pol (integerFrame s.params (intOperand value) s.n)

/-- R73: the finished frame of a decimal, for the configuration in force. -/
def State.decimalF (value : Word) (places : Byte) (s : State) : List Byte :=
  normalizeFrame s.pol (decimalFrame s.params (binary32Value value) places.toNat s.n)

/-- R77: the finished frame of a text, for the configuration in force. -/
def State.textF (text : List Byte) (s : State) : List Byte :=
  normalizeFrame s.pol (textFrame s.params text s.n)

/-- `ENCI v` (R70). -/
def execEnci (value : Word) (s : State) : Host.Outcome State Fault Refusal :=
  runEncoder (.enci value) none (s.integerF value) none s

/-- `ENCD q, p` (R73). -/
def execEncd (value : Word) (places : Byte) (s : State) : Host.Outcome State Fault Refusal :=
  runEncoder (.encd value places) (decimalStop value) (s.decimalF value places) none s

/-- `ENCT text` (R77). -/
def execEnct (text : List Byte) (s : State) : Host.Outcome State Fault Refusal :=
  runEncoder (.enct text) none (s.textF text) none s

end Sys2Proof.Machine
end

