-- ==== Sys2Proof/Machine/Public.lean ====
section
/-!
DEFINITION. The public surface: CONFIG and the three PRINT commands (spec/42_print_and_config.md R105 to R111). A
PRINT is the encode step of its encode-only command followed by the scan and the blanking, which the sequencer runs
(Machine/Sequencer.lean).
-/

namespace Sys2Proof.Machine

/-- R105: the writes of CONFIG, in its order: the five registers, the three lines Low, `CONFIGURED`; then `DONE`
(R96). -/
def State.configure (latch clock data : Byte) (pol : Polarity) (digits : Byte) (s : State) : State :=
  let r := { s with latchPin := some latch, clockPin := some clock, dataPin := some data, polarity := some pol,
                    digitCount := some (digitCountOperand digits), busy := true }
  let l := ((r.setLevel .latch .low).setLevel .clock .low).setLevel .data .low
  { l with configured := true, seq := { l.seq with phase := .done, bitcnt := 0 } }

/-- `CONFIG latch, clock, data, pol, digits` (R105, R106, R112). -/
def execConfig (latch clock data : Byte) (pol : Polarity) (digits : Byte) (s : State) :
    Host.Outcome State Fault Refusal :=
  if s.accepting then
    if s.configured then .refused .alreadyConfigured
    else if digitsInContract digits then
      if pinsDistinct latch clock data then .next (s.configure latch clock data pol digits)
      else .refused .pinsNotDistinct
    else .refused .digitsOutOfRange
  else .next s

/-- `PRINTI v, dur` (R107). -/
def execPrinti (value dur : Word) (s : State) : Host.Outcome State Fault Refusal :=
  runEncoder (.printi value dur) none (s.integerF value) (some dur) s

/-- `PRINTD q, p, dur` (R108). -/
def execPrintd (value : Word) (places : Byte) (dur : Word) (s : State) : Host.Outcome State Fault Refusal :=
  runEncoder (.printd value places dur) (decimalStop value) (s.decimalF value places) (some dur) s

/-- `PRINTT text, dur` (R109). -/
def execPrintt (text : List Byte) (dur : Word) (s : State) : Host.Outcome State Fault Refusal :=
  runEncoder (.printt text dur) none (s.textF text) (some dur) s

end Sys2Proof.Machine
end

