-- ==== Sys2Proof/Machine/Render.lean ====
section
/-!
DEFINITION. RENDER (spec/41_scanner.md R85): the frame and the duration are taken in the step that accepts the
command (R96, row IDLE); the scan and the blanking are the sequencer's (Machine/Sequencer.lean).
-/

namespace Sys2Proof.Machine

/-- R85, R96: `F <- f`, `DUR <- dur`, `BUSY <- 1`, then `R_STAMP`. -/
def State.startRender (frame : List Byte) (dur : Word) (s : State) : State :=
  { s with busy := true, f := writeFrame s.f frame, dur := some dur,
           seq := { s.seq with phase := .rStamp, bitcnt := 0 } }

/-- `RENDER f, dur` (R85); a frame of another length than N is outside the contract (R56, U5). -/
def execRender (frame : List Byte) (dur : Word) (s : State) : Host.Outcome State Fault Refusal :=
  if s.accepting then
    if s.configured then
      if frame.length = s.n then .next (s.startRender frame dur) else .refused .frameLengthMismatch
    else .refused .notConfigured
  else .next s

end Sys2Proof.Machine
end

