-- ==== Sys2Proof/Machine/Dispatch.lean ====
section
/-!
DEFINITION. One arm per command: the micro-step of the block in which the command is accepted (spec/41_scanner.md
R96, row IDLE) or encoded (row ENCODE).
-/

namespace Sys2Proof.Machine

def exec (i : Instr) (s : State) : Host.Outcome State Fault Refusal :=
  match i with
  | .config latch clock data pol digits => Sys2Proof.Machine.execConfig latch clock data pol digits s
  | .enci value => Sys2Proof.Machine.execEnci value s
  | .encd value places => Sys2Proof.Machine.execEncd value places s
  | .enct text => Sys2Proof.Machine.execEnct text s
  | .render frame dur => Sys2Proof.Machine.execRender frame dur s
  | .printi value dur => Sys2Proof.Machine.execPrinti value dur s
  | .printd value places dur => Sys2Proof.Machine.execPrintd value places dur s
  | .printt text dur => Sys2Proof.Machine.execPrintt text dur s

end Sys2Proof.Machine
end

