-- ==== Sys2Proof/Machine/Sequencer.lean ====
section
/-!
DEFINITION. The sequencer: one definition per row of the transition table of spec/41_scanner.md R96 that does not
depend on the command, that is every row but IDLE and ENCODE.
-/

namespace Sys2Proof.Machine

/-- R91: the digit-select byte: `~SEL[i]` under CommonCathode, `SEL[i]` under CommonAnode. -/
def selByte (p : Params) (pol : Polarity) (i : Fin 8) : Byte :=
  match pol with
  | .commonCathode => ~~~(selEntry p i)
  | .commonAnode => selEntry p i

/-- Row R_STAMP: `T0 <- Stamp()`, `POS <- 0` (R88: `Stamp() = TIME_MS`). -/
def rowStamp (s : State) : State :=
  { s.emit (.stamp s.timeMs) with t0 := some s.timeMs, seq := ⟨.rCheck, 0, 0⟩ }

/-- R88: `Elapsed(T0) = TIME_MS - T0`. -/
def State.elapsedMs (s : State) : Nat := s.timeMs - s.stampValue

/-- Row R_CHECK: the scan goes on exactly when `Elapsed(T0) < DUR` (R92: "The comparison is strict"). -/
def rowCheck (s : State) : State :=
  (s.emit (.elapsed s.elapsedMs)).goto (if s.elapsedMs < s.durMs then .rLatchLo else .bLatchLo)

/-- Row R_LATCH_LO. -/
def rowLatchLo (s : State) : State := (s.setLevel .latch .low).goto .rShiftSel

/-- Row R_SHIFT_SEL: `ShiftOut(LSBFirst, SelByte(POS))`. -/
def rowShiftSel (s : State) : State :=
  s.shiftStep .lsbFirst (selByte s.params s.pol s.seq.pos) .rShiftSeg

/-- Row R_SHIFT_SEG: `ShiftOut(MSBFirst, F[POS])`. -/
def rowShiftSeg (s : State) : State := s.shiftStep .msbFirst (s.frameByte s.seq.pos) .rLatchHi

/-- Row R_LATCH_HI; the hold that follows begins here (R90). -/
def rowLatchHi (s : State) : State := ((s.setLevel .latch .high).goto .rHold).beginSleep

/-- R96: `(POS + 1) mod N`. -/
def nextPos (pos : Fin 8) (n : Nat) : Fin 8 := Fin.ofNat 8 ((pos.val + 1) % n)

/-- R96: the phase after a hold: the check at the end of a pass, and under PerDigit (R92) after every load. -/
def afterHold (check : ExitCheck) (pos : Fin 8) : Phase :=
  if pos = 0 then .rCheck
  else
    match check with
    | .perPass => .rLatchLo
    | .perDigit => .rCheck

/-- Row R_HOLD: once `Sleep(POV_DELAY_MS)` is over, `POS <- (POS + 1) mod N`; until then the phase "has no step" (R96),
and only the clock agent moves (log entry 12). -/
def rowHold (s : State) : State :=
  if s.sleepOver then
    let pos := nextPos s.seq.pos s.n
    { s.emit (.sleep s.params.povDelayMs) with
        sleepStart := none, seq := ⟨afterHold s.params.exitCheck pos, pos, 0⟩ }
  else s

/-- Row B_LATCH_LO. -/
def rowBlankLatchLo (s : State) : State := (s.setLevel .latch .low).goto .bShift1

/-- Row B_SHIFT_1: `ShiftOut(LSBFirst, 0x00)`. -/
def rowBlankShift1 (s : State) : State := s.shiftStep .lsbFirst 0x00#8 .bShift2

/-- Row B_SHIFT_2: `ShiftOut(MSBFirst, 0x00)`. -/
def rowBlankShift2 (s : State) : State := s.shiftStep .msbFirst 0x00#8 .bLatchHi

/-- Row B_LATCH_HI. -/
def rowBlankLatchHi (s : State) : State := (s.setLevel .latch .high).goto .done

/-- Row RESPOND: `F[0..N-1]` on `RSP_FRAME` (R57). -/
def rowRespond (s : State) : State :=
  ({ s.emit (.rspFrame s.frame) with rspFrame := some s.frame }).goto .done

/-- Row DONE: pulse `RSP_DONE`, `BUSY <- 0`, and `F`, `T0`, `DUR` hold no value (R16, R17, R104). -/
def rowDone (s : State) : State :=
  ({ s.emit .rspDone with rspDone := true, busy := false, f := Vector.replicate 8 none, t0 := none,
                          dur := none }).goto .idle

/-- R96: the row of a phase. In `IDLE` and `ENCODE` there is nothing to do here: those rows belong to the command. -/
def rowOf (ph : Phase) (s : State) : State :=
  match ph with
  | .idle => s
  | .encode => s
  | .rStamp => rowStamp s
  | .rCheck => rowCheck s
  | .rLatchLo => rowLatchLo s
  | .rShiftSel => rowShiftSel s
  | .rShiftSeg => rowShiftSeg s
  | .rLatchHi => rowLatchHi s
  | .rHold => rowHold s
  | .bLatchLo => rowBlankLatchLo s
  | .bShift1 => rowBlankShift1 s
  | .bShift2 => rowBlankShift2 s
  | .bLatchHi => rowBlankLatchHi s
  | .respond => rowRespond s
  | .done => rowDone s

/-- R96: one micro-step in a phase whose row does not depend on the command. -/
def advance (s : State) : State := rowOf s.seq.phase s

end Sys2Proof.Machine
end

