-- ==== Sys2Proof/Machine/Block.lean ====
section
/-!
DEFINITION. One micro-step of the block once the clock agent has moved (spec/41_scanner.md R96): in `IDLE` the `CMD`
port is read and the packet decoded, in `ENCODE` the latched command encodes, in every other phase the sequencer
advances.
-/

namespace Sys2Proof.Machine

/-- R58, R128: how a packet without a meaning is refused. -/
def refusalOf : DecodeError → Refusal
  | .emptyPacket => .wrongLength
  | .reservedOpcode opcode => .reservedOpcode opcode
  | .wrongLength => .wrongLength
  | .reservedPolarity pol => .reservedPolarity pol

/-- R96, row IDLE: "when `CMD_VALID` and not `BUSY`" the presented command is taken; otherwise the block waits. -/
def rowIdle (s : State) : Host.Outcome State Fault Refusal :=
  if s.cmdReady then
    match s.fetch with
    | none => .next s
    | some (packet, t) =>
      match decode packet with
      | .ok i => exec i t
      | .error e => .refused (refusalOf e)
  else .next s

/-- R96, row ENCODE: the encode step of the latched command. -/
def rowEncode (s : State) : Host.Outcome State Fault Refusal :=
  match s.latched with
  | some i => exec i s
  | none => .refused .noLatchedCommand

/-- One row of R96. -/
def microStep (s : State) : Host.Outcome State Fault Refusal :=
  match s.seq.phase with
  | .idle => rowIdle s
  | .encode => rowEncode s
  | .rStamp | .rCheck | .rLatchLo | .rShiftSel | .rShiftSeg | .rLatchHi | .rHold
  | .bLatchLo | .bShift1 | .bShift2 | .bLatchHi | .respond | .done => .next (advance s)

/-- One step of the machine: the clock agent and the platform first (R10, R21), then, unless `RESET` is asserted
(R135), one micro-step of the block. -/
def wholeStep (s : State) : Host.Outcome State Fault Refusal :=
  if s.nextInput.reset then .next s.beginStep.assertReset else microStep s.beginStep

/-- The next platform input without `RESET`. -/
def withoutReset : List PlatformInput → List PlatformInput
  | i :: rest => { i with reset := false } :: rest
  | [] => []

/-- R112 (c): every command but CONFIG is accepted only when `CONFIGURED = 1`. For such a packet an unconfigured block
is given the configuration of the worked example of R105, as if that CONFIG had completed (log entry 1). -/
def State.readyFor (packet : Packet) (s : State) : State :=
  if s.configured || packet.head? == some (opcodeByte .config) then s
  else { s.configure 10#8 11#8 12#8 .commonCathode 4#8 with trace := s.trace }

/-- The packet `packet` on the `CMD` port of an idle block, `RESET` not asserted, so that the next step takes it. -/
def State.present (packet : Packet) (s : State) : State :=
  let t := s.readyFor packet
  { t with hostProgram := packet :: t.hostProgram, busy := false, seq := { t.seq with phase := .idle, bitcnt := 0 },
           platform := withoutReset t.platform }

end Sys2Proof.Machine
end

