-- ==== Sys2Proof/Machine/Step.lean ====
section
/-!
DEFINITION. The step of the machine, and the host's way of placing one command where the next step takes it.
-/

namespace Sys2Proof.Machine

/-- One step: the clock agent and the platform, then the block (spec/10_state.md R10, spec/41_scanner.md R96). -/
def step (s : State) : Host.Outcome State Fault Refusal := wholeStep s

/-- `s` with the packet of a word of spec/opcode_table.json on the `CMD` port and the block ready for it, so that the
very next step takes exactly that command (log entry 1). -/
def State.withFetchWord (s : State) (nbits w : Nat) : State := s.present (packetOfTableWord nbits w)

end Sys2Proof.Machine
end

