-- ==== Sys2Proof/Safety.lean ====
section
/-!
DEFINITION. What counts as a safe state and a safe run, in the terms claims use: the constraints the spec puts on the
tables (spec/00_scope.md R8), the invariant of the machine, the end of a run (spec/70_reset_and_hazards.md R148), and
the operand values as mathematics says them (rationals, decimal digits), for claims to compare the encoder with.
-/

namespace Sys2Proof

/-- R8: "one-hot ... pattern identifying a single digit position". -/
def isOneHot (b : Byte) : Bool := decide (∃ k : Fin 8, b = 1#8 <<< k.val)

/-- R8, R35, R38, R39: the constraints on the tables: each select entry one-hot, the entries pairwise different,
`DP_BIT` one bit, "a bit that no glyph of the tables has set" (R35), and the blank glyph dark. -/
structure Params.Wf (p : Params) : Prop where
  sel_one_hot   : ∀ i, isOneHot (selEntry p i) = true
  sel_different : ∀ i j, i ≠ j → selEntry p i ≠ selEntry p j
  dp_one_bit    : isOneHot p.dpBit = true
  dp_clear      : ∀ k, memRead p .glyph k &&& p.dpBit = 0#8
  blank_dark    : glyphBlank p = 0#8

/-- R54 as mathematics: the rational a finite binary32 pattern stands for. -/
def binary32Rational (w : Word) : ℚ :=
  let s : ℚ := if w.getLsbD 31 then -1 else 1
  if binary32Exponent w = 0 then s * (binary32Fraction w : ℚ) * (2 : ℚ) ^ (-149 : ℤ)
  else s * ((2 ^ 23 + binary32Fraction w : ℕ) : ℚ) * (2 : ℚ) ^ ((binary32Exponent w : ℤ) - 150)

/-- R69 as mathematics: `rnd(q) = floor(q + 1/2)`. -/
def rndRational (q : ℚ) : ℕ := ⌊q + 1 / 2⌋₊

/-- R9 as mathematics: the number of decimal digits of `m`, `ndigits(0) = 1`. -/
def decimalDigitCount (m : ℕ) : ℕ := max 1 (Nat.digits 10 m).length

/-- R67: what slot `N-1-j` of `Layout(neg, m, mind, N)` holds, with Mathlib's decimal digits. -/
def specSlot (p : Params) (neg : Bool) (m mind j : ℕ) : Byte :=
  let w := max (decimalDigitCount m) mind
  if j < w then glyphDigit p (Fin.ofNat 10 ((Nat.digits 10 m).getD j 0))
  else if neg ∧ j = w then glyphMinus p
  else glyphBlank p

/-- R73: what slot `N-1-j` of the common-cathode frame of `ENCD q, places` holds, `q` the rational of the operand. -/
def specDecimalSlot (p : Params) (q : ℚ) (places n j : ℕ) : Byte :=
  if places = 0 then
    specSlot p (decide (q < 0) && decide (0 < rndRational |q|)) (rndRational |q|) 1 j
  else
    let g := specSlot p (decide (q < 0)) (rndRational (|q| * 10 ^ places)) (places + 1) j
    if places < n ∧ j = places then g ||| p.dpBit else g

/-- R52, R55: the length of a packet by its opcode byte and its `LEN` byte; `none` is a reserved opcode (R50). -/
def formatLength (opcode len : ℕ) : Option ℕ :=
  match opcode with
  | 0x01 => some 6
  | 0x10 => some 5
  | 0x11 => some 6
  | 0x12 => some (2 + len)
  | 0x20 => some (6 + len)
  | 0x30 => some 9
  | 0x31 => some 10
  | 0x32 => some (6 + len)
  | _ => none

/-- R81 (d): a character with its case taken away. -/
def upperCase (c : Byte) : Byte := if 0x61 ≤ c.toNat ∧ c.toNat ≤ 0x7A then c - 0x20#8 else c

/-- R102: `rev8(b)[i] = b[7 - i]`. -/
def rev8 (b : Byte) : Byte := BitVec.ofFnLE fun i : Fin 8 => b.getLsbD (7 - i.val)

namespace Machine

/-- Every stage of a chain register known, with the bits of `b`; index `j` is bit `j`. -/
def stagesOf (b : BitVec 16) : Stages := Vector.ofFn fun j : Fin 16 => some (b.getLsbD j.val)

/-- R102: the stages after a load: the far register holds `rev8(S)`, the near one `G`. -/
def loadedStages (sel seg : Byte) : Stages := stagesOf (rev8 sel ++ seg)

/-- No `RESET` among the platform inputs listed in the state. -/
def State.NoReset (s : State) : Prop := ∀ i ∈ s.platform, i.reset = false

/-- The block waits in `IDLE` and `RESET` is not asserted, so the next step takes the packet on `CMD` (R96, R112). -/
def State.Waiting (s : State) : Prop :=
  s.seq.phase = .idle ∧ s.busy = false ∧ s.nextInput.reset = false

/-- R90, R45: the five events of a load, in order, with the configured pins (R86, R87). -/
def loadEvents (latch clock data sel seg : Byte) (povDelayMs : ℕ) : List Event :=
  [.setLevel .latch latch .low, .shiftOut data clock .lsbFirst sel, .shiftOut data clock .msbFirst seg,
   .setLevel .latch latch .high, .sleep povDelayMs]

/-- R94: the four events of the blanking, in order. -/
def blankEvents (latch clock data : Byte) : List Event :=
  [.setLevel .latch latch .low, .shiftOut data clock .lsbFirst 0#8, .shiftOut data clock .msbFirst 0#8,
   .setLevel .latch latch .high]

/-- R95: the events of a scan under PerPass, in order: the stamp; for each answer below the duration that answer and
one pass over the positions; the answer that ends the scan. `load i` is the load of position `i`. -/
def scanEvents (stamp : ℕ) (answers : List ℕ) (last n : ℕ) (load : Fin 8 → List Event) : List Event :=
  .stamp stamp :: answers.flatMap (fun a => .elapsed a :: ((List.finRange 8).take n).flatMap load) ++ [.elapsed last]

/-- `k` steps of the machine. -/
def runSteps (k : ℕ) (s : State) : Host.Outcome State Fault Refusal := Host.Core.run Sys2Proof.core k s

/-- R135: the block's part of the table of reset values. -/
def State.BlockReset (s : State) : Prop :=
  s.configured = false ∧ s.busy = false ∧ s.latchPin = none ∧ s.clockPin = none ∧ s.dataPin = none ∧
  s.polarity = none ∧ s.digitCount = none ∧ s.f = Vector.replicate 8 none ∧ s.t0 = none ∧ s.dur = none ∧
  s.sleepStart = none ∧ s.seq = ⟨.idle, 0, 0⟩ ∧ s.latched = none ∧ s.latch = .undriven ∧ s.clock = .undriven ∧ s.data = .undriven ∧
  s.rspDone = false ∧ s.rspFrame = none

/-- The five configuration registers hold the same in both states (R12). -/
def State.SameConfiguration (s t : State) : Prop :=
  t.latchPin = s.latchPin ∧ t.clockPin = s.clockPin ∧ t.dataPin = s.dataPin ∧ t.polarity = s.polarity ∧
  t.digitCount = s.digitCount ∧ t.configured = s.configured

/-- An encode step has written the common-cathode bytes `g 0 ... g (N-1)`, normalized (R80), into `F[0..N-1]` and no
other frame byte (R15, R65). -/
def State.FrameWritten (g : ℕ → Byte) (s t : State) : Prop :=
  ∀ k : Fin 8, t.f.get k = if k.val < s.n then some (normalizeByte s.pol (g k.val)) else s.f.get k

/-- R96 as a function: what `SEQ` becomes after a micro-step in `seq`, other than one of rows IDLE and ENCODE.
`goesOn` is the answer of the check `e < DUR`, `ended` that the clock has advanced by the hold time. -/
def specNextSeq (goesOn ended : Bool) (n : ℕ) (check : ExitCheck) (seq : Seq) : Seq :=
  let shift (after : Phase) : Seq :=
    if h : seq.bitcnt.val < 8 then ⟨seq.phase, seq.pos, ⟨seq.bitcnt.val + 1, by omega⟩⟩ else ⟨after, seq.pos, 0⟩
  match seq.phase with
  | .idle => seq
  | .encode => seq
  | .rStamp => ⟨.rCheck, 0, 0⟩
  | .rCheck => ⟨if goesOn then .rLatchLo else .bLatchLo, seq.pos, 0⟩
  | .rLatchLo => ⟨.rShiftSel, seq.pos, 0⟩
  | .rShiftSel => shift .rShiftSeg
  | .rShiftSeg => shift .rLatchHi
  | .rLatchHi => ⟨.rHold, seq.pos, 0⟩
  | .rHold =>
    if !ended then seq
    else if (seq.pos.val + 1) % n = 0 then ⟨.rCheck, 0, 0⟩
    else ⟨if check = .perPass then .rLatchLo else .rCheck, Fin.ofNat 8 ((seq.pos.val + 1) % n), 0⟩
  | .bLatchLo => ⟨.bShift1, seq.pos, 0⟩
  | .bShift1 => shift .bShift2
  | .bShift2 => shift .bLatchHi
  | .bLatchHi => ⟨.done, seq.pos, 0⟩
  | .respond => ⟨.done, seq.pos, 0⟩
  | .done => ⟨.idle, seq.pos, 0⟩

/-- R87, R99: the byte being shifted out in a shifting phase, with its bit order. -/
def State.shiftingByte (s : State) : BitOrder × Byte :=
  match s.seq.phase with
  | .rShiftSel => (.lsbFirst, selByte s.params s.pol s.seq.pos)
  | .rShiftSeg => (.msbFirst, s.frameByte s.seq.pos)
  | .bShift1 => (.lsbFirst, 0#8)
  | .bShift2 => (.msbFirst, 0#8)
  | .idle | .encode | .rStamp | .rCheck | .rLatchLo | .rLatchHi | .rHold | .bLatchLo | .bLatchHi | .respond
  | .done => (.lsbFirst, 0#8)

/-- The phases in which a byte is being shifted out (R96). -/
def Phase.shifting : Phase → Bool
  | .rShiftSel | .rShiftSeg | .bShift1 | .bShift2 => true
  | .idle | .encode | .rStamp | .rCheck | .rLatchLo | .rLatchHi | .rHold | .bLatchLo | .bLatchHi | .respond
  | .done => false

/-- The phases between a latch-low and the latch-high of the same load (R90, R94). -/
def Phase.loading : Phase → Bool
  | .rShiftSel | .rShiftSeg | .rLatchHi | .bShift1 | .bShift2 | .bLatchHi => true
  | .idle | .encode | .rStamp | .rCheck | .rLatchLo | .rHold | .bLatchLo | .respond | .done => false

/-- The phases after the stamp and before completion (R92, R94). -/
def Phase.scanning : Phase → Bool
  | .rCheck | .rLatchLo | .rShiftSel | .rShiftSeg | .rLatchHi | .rHold | .bLatchLo | .bShift1 | .bShift2
  | .bLatchHi => true
  | .idle | .encode | .rStamp | .respond | .done => false

/-- The phases of the blanking (R94). -/
def Phase.blanking : Phase → Bool
  | .bLatchLo | .bShift1 | .bShift2 | .bLatchHi => true
  | .idle | .encode | .rStamp | .rCheck | .rLatchLo | .rShiftSel | .rShiftSeg | .rLatchHi | .rHold | .respond
  | .done => false

/-! The clock agent. No step of the block moves `TIME_MS`, so what the agent does from a state on is a function of
that state alone. -/

/-- R21: the milliseconds the clock agent adds before the `j`-th step from `s`, counted from 0: the listed amount, or,
where the list has run out, the free value (log entry 2). -/
def State.clockMove (s : State) (j : ℕ) : ℕ :=
  match s.platform[j]? with
  | some i => i.advanceMs
  | none => Config.clockAdvance (s.ticks + j)

/-- How many of the next `k` steps have the clock moved. -/
def State.clockMovesWithin (s : State) (k : ℕ) : ℕ := (List.range k).countP fun j => decide (0 < s.clockMove j)

/-- R97 (d): the fairness premise on the clock agent, "that `TIME_MS` does not stand still for ever". -/
def State.FairClock (s : State) : Prop := ∀ j, ∃ i, j ≤ i ∧ 0 < s.clockMove i

/-- R97 (d): a number of clock moves that is enough for a scan to end: one for each millisecond of the duration, and,
for the pass in progress when it has run out, one for each step and each millisecond of hold of its loads. -/
def State.scanMoves (s : State) (dur : Word) : ℕ := dur.toNat + s.n * (s.params.povDelayMs + 21) + 2

/-- A command that encodes and whose operand has a value. -/
def encodesInContract : Instr → Bool
  | .enci _ | .enct _ | .printi _ _ | .printt _ _ => true
  | .encd value _ | .printd value _ _ => binary32Finite value
  | .config _ _ _ _ _ | .render _ _ => false

/-- The configuration registers hold a configuration inside the contract (R12, R13). -/
def State.registersValid (s : State) : Bool :=
  match s.latchPin, s.clockPin, s.dataPin, s.polarity, s.digitCount with
  | some latch, some clock, some data, some _, some n =>
    pinsDistinct latch clock data && decide (1 ≤ n.toNat) && decide (n.toNat ≤ Config.maxDigits)
  | _, _, _, _, _ => false

/-- The invariant every step keeps. -/
structure State.Inv (s : State) : Prop where
  /-- R12, R13: once configured, the registers hold a configuration inside the contract. -/
  registers_valid : s.configured = true → s.registersValid = true
  /-- R12, R19, R135: before CONFIG the registers hold no value and the lines are undriven. -/
  unconfigured_registers : s.configured = false →
    s.latchPin = none ∧ s.clockPin = none ∧ s.dataPin = none ∧ s.polarity = none ∧ s.digitCount = none
  unconfigured_lines : s.configured = false →
    s.latch = .undriven ∧ s.clock = .undriven ∧ s.data = .undriven
  /-- R112, R135: before CONFIG the sequencer waits in `IDLE`. -/
  unconfigured_idle : s.configured = false → s.seq = ⟨.idle, 0, 0⟩
  /-- R14: `BUSY` is 1 from acceptance to completion. -/
  busy_iff : s.busy = true ↔ s.seq.phase ≠ .idle
  /-- R23, R96: operands are held in `ENCODE` only. -/
  latched_iff : s.latched.isSome = true ↔ s.seq.phase = .encode
  latched_encodes : ∀ i, s.latched = some i → encodesInContract i = true
  /-- R96: "`BITCNT` is 0 except inside the four `*_SHIFT_*` phases". -/
  bitcnt_zero : s.seq.phase.shifting = false → s.seq.bitcnt = 0
  /-- R137: outside a `ShiftOut`, `CLOCK` is Low; R105: all three lines are driven from CONFIG on. -/
  lines_driven : s.configured = true → s.clock = .low ∧ s.latch ≠ .undriven ∧ s.data ≠ .undriven
  /-- R45, R90: the bytes of a load are shifted with `LATCH` Low, and the hold comes after its rise. -/
  latch_low : s.seq.phase.loading = true → s.latch = .low
  latch_high : s.seq.phase = .rHold → s.latch = .high
  /-- R89, R90: the block sleeps in the hold only, since a time that lies in the past. -/
  sleeping_iff : s.sleepStart.isSome = true ↔ s.seq.phase = .rHold
  sleep_past : ∀ start, s.sleepStart = some start → start ≤ s.timeMs
  /-- R92, R97 (d): the blanking comes only after the clock has carried `Elapsed(T0)` to `DUR`. -/
  blanking_late : s.seq.phase.blanking = true → s.durMs ≤ s.timeMs - s.stampValue
  /-- R18: `POS` is 0 to N-1. -/
  pos_lt : s.configured = true → s.seq.pos.val < s.n
  /-- R16: a frame in use has all its bytes. -/
  frame_live : (s.seq.phase = .rStamp ∨ s.seq.phase.scanning = true ∨ s.seq.phase = .respond) →
    ∀ k : Fin 8, k.val < s.n → (s.f.get k).isSome = true
  /-- R15: "`F[k]` for `k >= N` is never read or written by any rule". -/
  frame_beyond : s.configured = true → ∀ k : Fin 8, s.n ≤ k.val → s.f.get k = none
  /-- R16, R17: between commands the frame and the working registers hold no value. -/
  dead_when_idle : (s.seq.phase = .idle ∨ s.seq.phase = .encode) →
    s.f = Vector.replicate 8 none ∧ s.t0 = none ∧ s.dur = none
  /-- R17: a scan has its duration and, from the stamp on, its stamp, which lies in the past (R21). -/
  dur_live : (s.seq.phase = .rStamp ∨ s.seq.phase.scanning = true) → s.dur.isSome = true
  stamp_live : s.seq.phase.scanning = true → s.t0.isSome = true ∧ s.stampValue ≤ s.timeMs

/-- R148: "It has ended when the host has no further command and the block is in `IDLE` with `BUSY = 0`". -/
def State.ended (s : State) : Bool :=
  s.hostProgram.isEmpty && decide (s.seq.phase = .idle) && !s.busy

end Machine

end Sys2Proof
end

