-- ==== Sys2Proof/Certificates/Slice0/Obligations.lean ====
section
/-!
DEFINITION. The statements for the provers, in the order of OBLIGATIONS.json: encodings, the step, the eight
commands, the encoder as a whole, the sequencer, the lines and the chain, reset and the whole-machine rules.
-/

open Sys2Proof Sys2Proof.Machine

/-! ### Encodings -/

/-- R61: the twelve worked packets decode to the commands they stand for. -/
def Obligations.WorkedPacketsDecode : Prop :=
  decode [0x01, 0x0A, 0x0B, 0x0C, 0x00, 0x04] = .ok (.config 10 11 12 .commonCathode 4) ∧
  decode [0x01, 0x02, 0x03, 0x04, 0x01, 0x08] = .ok (.config 2 3 4 .commonAnode 8) ∧
  decode [0x10, 0x07, 0x00, 0x00, 0x00] = .ok (.enci (BitVec.ofInt 32 7)) ∧
  decode [0x10, 0xF9, 0xFF, 0xFF, 0xFF] = .ok (.enci (BitVec.ofInt 32 (-7))) ∧
  decode [0x10, 0x00, 0x00, 0x00, 0x80] = .ok (.enci (BitVec.ofInt 32 (-2147483648))) ∧
  decode [0x11, 0xD0, 0x0F, 0x49, 0x40, 0x02] = .ok (.encd 0x40490FD0 2) ∧
  decode [0x12, 0x02, 0x48, 0x69] = .ok (.enct [0x48, 0x69]) ∧
  decode [0x12, 0x00] = .ok (.enct []) ∧
  decode [0x20, 0x04, 0x00, 0x00, 0x40, 0x07, 0xE8, 0x03, 0x00, 0x00] =
    .ok (.render [0x00, 0x00, 0x40, 0x07] 1000) ∧
  decode [0x30, 0x7B, 0x00, 0x00, 0x00, 0xF4, 0x01, 0x00, 0x00] = .ok (.printi 123 500) ∧
  decode [0x31, 0x00, 0x00, 0x00, 0xBF, 0x02, 0xFA, 0x00, 0x00, 0x00] = .ok (.printd 0xBF000000 2 250) ∧
  decode [0x32, 0x03, 0x41, 0x21, 0x42, 0x00, 0x00, 0x00, 0x00] = .ok (.printt [0x41, 0x21, 0x42] 0)

/-- R52, R53: decoding the packet of any command that has one gives the command back, every operand included. -/
def Obligations.DecodeInvertsEncode : Prop :=
  ∀ i : Instr, i.encodable = true → decode (encode i) = .ok i

/-- R52, R53, R55: a packet with a meaning is the packet of the command it decodes to, so no two packets mean the
same and nothing of a packet is dropped. -/
def Obligations.EncodeInvertsDecode : Prop :=
  ∀ (p : Packet) (i : Instr), decode p = .ok i → encode i = p ∧ i.encodable = true

/-- R58: each of the five kinds of packet without a meaning is refused by name where the block waits for a command
(for the last two, once it is configured). Which name a packet gets, and that a packet is
judged before the gate of R112, is the model's (log entry 16). -/
def Obligations.MeaninglessPacketsAreRefused : Prop :=
  ∀ (s : State) (op : Byte) (body : List Byte) (rest : List Packet),
    s.Waiting → s.hostProgram = (op :: body) :: rest →
    (formatLength op.toNat (body.headD 0).toNat = none → step s = .refused (.reservedOpcode op)) ∧
    (∀ l, formatLength op.toNat (body.headD 0).toNat = some l → body.length + 1 ≠ l →
      step s = .refused .wrongLength) ∧
    (∀ latch clock data pol digits, op = 0x01#8 → body = [latch, clock, data, pol, digits] → 1 < pol.toNat →
      step s = .refused (.reservedPolarity pol)) ∧
    (∀ i, s.configured = true → decode (op :: body) = .ok i →
      (∀ w places dur, i = .encd w places ∨ i = .printd w places dur → binary32Exponent w = 255 →
        step s = .refused .nonFiniteDecimal) ∧
      (∀ frame dur, i = .render frame dur →
        frame.length ≠ (s.digitCount.getD (Config.unspecifiedDigitCount (s.ticks + 1))).toNat →
        step s = .refused .frameLengthMismatch))

/-! ### The step -/

/-- R96, row IDLE: where the block waits and the packet on `CMD` decodes to `i`, the step is `exec i`, after the clock
agent has moved (R21), the packet has left the port and the pulse of the last response is over. The host's list of
packets, the clock's list and the length of the pulse are the model's (log entries 1, 2, 13). -/
def Obligations.StepTakesPresentedCommand : Prop :=
  ∀ (s : State) (p : Packet) (rest : List Packet) (i : Instr),
    s.Waiting → s.hostProgram = p :: rest → decode p = .ok i →
    step s = exec i { s with
      timeMs := s.timeMs + s.nextInput.advanceMs, platform := s.platform.tail, ticks := s.ticks + 1,
      rspDone := false, rspFrame := if s.rspDone then none else s.rspFrame, hostProgram := rest }

/-- R96: while `RESET` is not asserted the step of a busy block is `exec` of the latched command in `ENCODE` and the
sequencer's row in every other phase, and an idle block without a command waits. What precedes every step
(`beginStep`) is the model's (log entries 2, 13). -/
def Obligations.StepRunsTheSequencer : Prop :=
  ∀ s : State, s.nextInput.reset = false →
    (∀ i, s.seq.phase = .encode → s.latched = some i → step s = exec i s.beginStep) ∧
    (s.seq.phase ≠ .idle → s.seq.phase ≠ .encode → step s = .next (advance s.beginStep)) ∧
    (s.seq.phase = .idle → s.hostProgram = [] → step s = .next s.beginStep)

/-! ### CONFIG -/

/-- R105: CONFIG inside the contract writes the five registers, drives the three lines Low, sets `CONFIGURED`, and
its completion pulses `RSP_DONE` and clears `BUSY`; nothing else changes, the chain included (R106 (d)). -/
def Obligations.ConfigWritesTheConfiguration : Prop :=
  ∀ (latch clock data : Byte) (pol : Polarity) (digits : Byte) (s : State),
    s.seq.phase = .idle → s.busy = false → s.configured = false →
    1 ≤ digits.toNat → digits.toNat ≤ 8 → latch ≠ clock → latch ≠ data → clock ≠ data →
    ∃ t, exec (.config latch clock data pol digits) s = .next t ∧
      t = { s with
        latchPin := some latch, clockPin := some clock, dataPin := some data, polarity := some pol,
        digitCount := some (BitVec.ofNat 4 digits.toNat), configured := true, busy := true,
        latch := .low, clock := .low, data := .low, seq := ⟨.done, s.seq.pos, 0⟩,
        trace := .setLevel .data data .low :: .setLevel .clock clock .low :: .setLevel .latch latch .low ::
          s.trace } ∧
      t.n = digits.toNat ∧
      advance t = { t with
        busy := false, rspDone := true, f := Vector.replicate 8 none, t0 := none, dur := none,
        seq := ⟨.idle, s.seq.pos, 0⟩, trace := .rspDone :: t.trace }

/-- R106, R112, R128 (U1, U2, U3): a CONFIG outside the contract, and a second CONFIG, are refused by name. Which name
a CONFIG gets that is outside the contract in two ways (nine digits with equal pins, a second CONFIG with nine digits)
is the model's order of checks (log entry 16). -/
def Obligations.ConfigOutsideTheContractIsRefused : Prop :=
  ∀ (latch clock data : Byte) (pol : Polarity) (digits : Byte) (s : State),
    s.seq.phase = .idle → s.busy = false →
    (s.configured = true → exec (.config latch clock data pol digits) s = .refused .alreadyConfigured) ∧
    (s.configured = false → (digits.toNat = 0 ∨ 8 < digits.toNat) →
      exec (.config latch clock data pol digits) s = .refused .digitsOutOfRange) ∧
    (s.configured = false → 1 ≤ digits.toNat → digits.toNat ≤ 8 →
      (latch = clock ∨ latch = data ∨ clock = data) →
      exec (.config latch clock data pol digits) s = .refused .pinsNotDistinct)

/-! ### Acceptance -/

/-- R96, R112: a configured block that waits accepts each of the six commands that encode: `BUSY` is set, the operands
are latched, the sequencer goes to `ENCODE`, and nothing else changes. That the latch is a field is the model's (log
entry 10). -/
def Obligations.EncodingCommandsAreAccepted : Prop :=
  ∀ (i : Instr) (s : State),
    s.seq.phase = .idle → s.busy = false → s.configured = true → encodesInContract i = true →
    exec i s = .next { s with busy := true, latched := some i, seq := ⟨.encode, s.seq.pos, 0⟩ }

/-- R112 (c), U3: every command but CONFIG is refused while `CONFIGURED = 0`. That the name is `notConfigured` also for
an ENCD or PRINTD of an infinity or a NaN, which U6 has refused as well, is the model's order of checks (log entry
16). -/
def Obligations.UnconfiguredBlockRefuses : Prop :=
  ∀ (i : Instr) (s : State),
    s.seq.phase = .idle → s.busy = false → s.configured = false →
    (∀ latch clock data pol digits, i ≠ .config latch clock data pol digits) →
    exec i s = .refused .notConfigured

/-- R112 (a): a command offered while the block is busy (and not itself the latched one in `ENCODE`) "has no effect at
all"; that `exec` then answers the unchanged state is the model's (log entry 15). -/
def Obligations.CommandNotAcceptedHasNoEffect : Prop :=
  ∀ (i : Instr) (s : State), s.busy = true → ¬(s.seq.phase = .encode ∧ s.latched = some i) →
    exec i s = .next s

/-- R112 (a), R5: a step of a busy block takes no packet from the host. The host's list is the model's (log entry 1). -/
def Obligations.BusyBlockTakesNoPacket : Prop :=
  ∀ s t : State, s.busy = true → step s = .next t → t.hostProgram = s.hostProgram

/-! ### The encode step -/

/-- R70, R67, R80: in `ENCODE`, ENCI writes `Layout(v < 0, |v|, 1, N)`, normalized, into `F[0..N-1]`, and nothing else
but the sequencer and the operand latch (log entry 10) changes. -/
def Obligations.EnciWritesItsFrame : Prop :=
  ∀ (v : Word) (s : State), s.seq.phase = .encode → s.latched = some (.enci v) →
    ∃ t, exec (.enci v) s = .next t ∧
      t = { s with f := t.f, latched := none, seq := ⟨.respond, s.seq.pos, 0⟩ } ∧
      s.FrameWritten (fun k => specSlot s.params (decide (v.toInt < 0)) v.toInt.natAbs 1 (s.n - 1 - k)) t

/-- R73, R74, R54, R69: in `ENCODE`, ENCD of a finite operand writes the frame of the exactly scaled and rounded
rational, with the point at the units digit where `0 < p < N`, and nothing else but the sequencer and the operand
latch changes. That the latch is a field, emptied by this step, is the model's (log entry 10). -/
def Obligations.EncdWritesItsFrame : Prop :=
  ∀ (w : Word) (places : Byte) (s : State), s.seq.phase = .encode → s.latched = some (.encd w places) →
    binary32Finite w = true →
    ∃ t, exec (.encd w places) s = .next t ∧
      t = { s with f := t.f, latched := none, seq := ⟨.respond, s.seq.pos, 0⟩ } ∧
      s.FrameWritten
        (fun k => specDecimalSlot s.params (binary32Rational w) places.toNat s.n (s.n - 1 - k)) t

/-- R77: in `ENCODE`, ENCT writes the glyphs of the first N characters from the left and blanks after them, and
nothing else but the sequencer and the operand latch (log entry 10) changes. -/
def Obligations.EnctWritesItsFrame : Prop :=
  ∀ (text : List Byte) (s : State), s.seq.phase = .encode → s.latched = some (.enct text) →
    ∃ t, exec (.enct text) s = .next t ∧
      t = { s with f := t.f, latched := none, seq := ⟨.respond, s.seq.pos, 0⟩ } ∧
      s.FrameWritten (fun k => (text[k]?.map (glyphOf s.params)).getD (glyphBlank s.params)) t

/-- R78: the character map: the same letter glyph for both cases, the digit glyphs, the minus, and the blank glyph for
every other byte. -/
def Obligations.CharacterMapIsAscii : Prop :=
  ∀ p : Params,
    (∀ l : Fin 26, glyphOf p (BitVec.ofNat 8 (0x41 + l)) = glyphLetter p l ∧
      glyphOf p (BitVec.ofNat 8 (0x61 + l)) = glyphLetter p l) ∧
    (∀ d : Fin 10, glyphOf p (BitVec.ofNat 8 (0x30 + d)) = glyphDigit p d) ∧
    glyphOf p 0x2D#8 = glyphMinus p ∧
    ∀ c : Byte, ¬(0x41 ≤ c.toNat ∧ c.toNat ≤ 0x5A) → ¬(0x61 ≤ c.toNat ∧ c.toNat ≤ 0x7A) →
      ¬(0x30 ≤ c.toNat ∧ c.toNat ≤ 0x39) → c.toNat ≠ 0x2D → glyphOf p c = glyphBlank p

/-- R107, R108, R109: in `ENCODE`, each PRINT writes the frame of its encode-only command and `DUR`, and the scan
starts; nothing else but the operand latch (log entry 10) changes. -/
def Obligations.PrintsWriteFrameAndDuration : Prop :=
  ∀ (dur : Word) (s : State), s.seq.phase = .encode →
    (∀ v, s.latched = some (.printi v dur) →
      ∃ t, exec (.printi v dur) s = .next t ∧
        t = { s with f := t.f, dur := some dur, latched := none, seq := ⟨.rStamp, s.seq.pos, 0⟩ } ∧
        s.FrameWritten
          (fun k => specSlot s.params (decide (v.toInt < 0)) v.toInt.natAbs 1 (s.n - 1 - k)) t) ∧
    (∀ w places, s.latched = some (.printd w places dur) → binary32Finite w = true →
      ∃ t, exec (.printd w places dur) s = .next t ∧
        t = { s with f := t.f, dur := some dur, latched := none, seq := ⟨.rStamp, s.seq.pos, 0⟩ } ∧
        s.FrameWritten
          (fun k => specDecimalSlot s.params (binary32Rational w) places.toNat s.n (s.n - 1 - k)) t) ∧
    (∀ text, s.latched = some (.printt text dur) →
      ∃ t, exec (.printt text dur) s = .next t ∧
        t = { s with f := t.f, dur := some dur, latched := none, seq := ⟨.rStamp, s.seq.pos, 0⟩ } ∧
        s.FrameWritten (fun k => (text[k]?.map (glyphOf s.params)).getD (glyphBlank s.params)) t)

/-! ### The encoder as a whole -/

/-- R66, R67: the loop the spec writes and its closed form compute the same frame. -/
def Obligations.LayoutLoopIsItsClosedForm : Prop :=
  ∀ (p : Params) (neg : Bool) (m mind n : ℕ), 1 ≤ mind → layoutLoop p neg m mind n = layout p neg m mind n

/-- R81 (b): the common-anode frame of any command that encodes is the bitwise complement of its common-cathode frame,
element by element. -/
def Obligations.CommonAnodeFrameIsComplement : Prop :=
  ∀ (i : Instr) (s t : State), s.seq.phase = .encode → s.latched = some i → encodesInContract i = true →
    exec i { s with polarity := some .commonCathode } = .next t →
    ∃ u, exec i { s with polarity := some .commonAnode } = .next u ∧
      ∀ k : Fin 8, k.val < s.n → ∃ b, t.f.get k = some b ∧ u.f.get k = some (~~~b)

/-- R65: "Two encode steps with equal operands and equal configuration write equal frames", whatever else the two
states hold. -/
def Obligations.EqualConfigurationsEncodeEqualFrames : Prop :=
  ∀ (i : Instr) (s₁ s₂ t₁ : State) (pol : Polarity) (n : BitVec 4),
    s₁.seq.phase = .encode → s₂.seq.phase = .encode → s₁.latched = some i → s₂.latched = some i →
    s₁.params = s₂.params → s₁.polarity = some pol → s₂.polarity = some pol →
    s₁.digitCount = some n → s₂.digitCount = some n → encodesInContract i = true → exec i s₁ = .next t₁ →
    ∃ t₂, exec i s₂ = .next t₂ ∧ ∀ k : Fin 8, k.val < n.toNat → t₂.f.get k = t₁.f.get k

/-- R81 (d): ENCT and PRINTT of two texts that differ in the case of letters only do the same. -/
def Obligations.TextCommandsIgnoreCase : Prop :=
  ∀ (a b : List Byte) (dur : Word) (s : State), s.seq.phase = .encode → a.map upperCase = b.map upperCase →
    exec (.enct a) { s with latched := some (.enct a) } = exec (.enct b) { s with latched := some (.enct b) } ∧
    exec (.printt a dur) { s with latched := some (.printt a dur) } =
      exec (.printt b dur) { s with latched := some (.printt b dur) }

/-- R65, R106 (d), (e): no command's own micro-step touches the chain, the clock, the tables, the response ports or
the host's packets. -/
def Obligations.CommandsLeaveTheEnvironmentAlone : Prop :=
  ∀ (i : Instr) (s t : State), exec i s = .next t →
    t.sr = s.sr ∧ t.out = s.out ∧ t.timeMs = s.timeMs ∧ t.params = s.params ∧ t.hostProgram = s.hostProgram ∧
    t.platform = s.platform ∧ t.ticks = s.ticks ∧ t.rspFrame = s.rspFrame ∧ t.rspDone = s.rspDone

/-- R57, R83: four micro-steps after an idle, configured block is offered ENCI, ENCD or ENCT, `RSP_FRAME` holds the N
bytes of the frame its encode step writes, `RSP_DONE` is pulsed, `BUSY` is 0, the frame buffer holds no value, and
lines, chain, configuration and event trace are untouched but for the two response events. That the command takes four
micro-steps, that its packet comes from a list, and that `RSP_FRAME` still holds the frame in the state in which
`RSP_DONE` is pulsed are the model's (log entries 1, 13, 19). -/
def Obligations.EncodeOnlyCommandAnswersItsFrame : Prop :=
  ∀ (s e : State) (p : Packet) (rest : List Packet) (i : Instr),
    s.Waiting → s.NoReset → s.configured = true → s.digitCount.isSome = true → s.polarity.isSome = true →
    s.n ≤ 8 → s.hostProgram = p :: rest → decode p = .ok i → encodesInContract i = true →
    (∀ v dur, i ≠ .printi v dur) → (∀ w places dur, i ≠ .printd w places dur) →
    (∀ text dur, i ≠ .printt text dur) →
    exec i (s.accept i) = .next e →
    ∃ t, runSteps 4 s = .next t ∧ t.rspFrame = some e.frame ∧ e.frame.length = s.n ∧ t.rspDone = true ∧
      t.busy = false ∧ t.seq.phase = .idle ∧ t.f = Vector.replicate 8 none ∧ t.t0 = none ∧ t.dur = none ∧
      s.SameConfiguration t ∧ t.latch = s.latch ∧ t.clock = s.clock ∧ t.data = s.data ∧ t.sr = s.sr ∧
      t.out = s.out ∧ t.hostProgram = rest ∧ t.trace = .rspDone :: .rspFrame e.frame :: s.trace

/-- R110: "`PRINTI v, dur` emits exactly the events of `RENDER ENCI(v), dur`, and likewise for the other two": the two
micro-steps that accept and encode a PRINT lead to the very state a RENDER of the frame of its encode-only command
leads to, from which the two runs are one. -/
def Obligations.PrintIsRenderOfItsEncodedFrame : Prop :=
  ∀ (s : State) (dur : Word), s.seq.phase = .idle → s.busy = false → s.configured = true → s.latched = none →
    s.n ≤ 8 →
    (∀ v e, exec (.enci v) (s.accept (.enci v)) = .next e →
      ∃ a, exec (.printi v dur) s = .next a ∧ exec (.printi v dur) a = exec (.render e.frame dur) s) ∧
    (∀ w places e, binary32Finite w = true → exec (.encd w places) (s.accept (.encd w places)) = .next e →
      ∃ a, exec (.printd w places dur) s = .next a ∧
        exec (.printd w places dur) a = exec (.render e.frame dur) s) ∧
    (∀ text e, exec (.enct text) (s.accept (.enct text)) = .next e →
      ∃ a, exec (.printt text dur) s = .next a ∧ exec (.printt text dur) a = exec (.render e.frame dur) s)

/-! ### RENDER and the scan -/

/-- R85, R96: a configured block that waits takes a RENDER of N bytes: the frame is in `F[0..N-1]`, `DUR` is set, the
scan starts at the stamp, and nothing else changes. -/
def Obligations.RenderStartsTheScan : Prop :=
  ∀ (frame : List Byte) (dur : Word) (s : State),
    s.seq.phase = .idle → s.busy = false → s.configured = true → frame.length = s.n →
    ∃ t, exec (.render frame dur) s = .next t ∧
      t = { s with busy := true, f := t.f, dur := some dur, seq := ⟨.rStamp, s.seq.pos, 0⟩ } ∧
      ∀ k : Fin 8, t.f.get k = if h : k.val < frame.length then some frame[k.val] else s.f.get k

/-- R96: the transition table: in every phase but `IDLE` and `ENCODE` the step goes on, to the row's next `SEQ`; in
`R_HOLD` it stays there until the clock has advanced by `POV_DELAY_MS` since the hold began. R96 has one row as one
micro-step; that a row that shifts a byte takes nine steps here, eight that stay in the phase and a ninth that leaves
it, and that a step in which the hold does not end is a step at all, are the model's (log entries 11, 12). -/
def Obligations.SequencerFollowsItsTable : Prop :=
  ∀ s : State, s.Inv → s.nextInput.reset = false → s.seq.phase ≠ .idle → s.seq.phase ≠ .encode →
    ∃ t, step s = .next t ∧
      t.seq = specNextSeq (decide (s.timeMs + s.nextInput.advanceMs - s.stampValue < s.durMs))
        (s.sleepStart.all fun start =>
          decide (start + s.params.povDelayMs ≤ s.timeMs + s.nextInput.advanceMs))
        s.n s.params.exitCheck s.seq

/-- R88, R92: the stamp is the time at the stamp, the answer of `Elapsed` is the time since, the pass begins exactly
when the answer is below `DUR`, and neither step touches the lines, the chain or the frame. -/
def Obligations.ScanChecksElapsedStrictly : Prop :=
  ∀ s : State, s.nextInput.reset = false →
    (s.seq.phase = .rStamp → ∃ t, step s = .next t ∧ t.t0 = some (s.timeMs + s.nextInput.advanceMs) ∧
      t.timeMs = s.timeMs + s.nextInput.advanceMs ∧ t.seq = ⟨.rCheck, 0, 0⟩ ∧
      t.trace = .stamp t.timeMs :: s.trace ∧ t.f = s.f ∧ t.dur = s.dur ∧ t.latch = s.latch ∧
      t.clock = s.clock ∧ t.data = s.data ∧ t.sr = s.sr ∧ t.out = s.out) ∧
    (∀ ts d, s.seq.phase = .rCheck → s.t0 = some ts → s.dur = some d → ∃ t, step s = .next t ∧
      t.trace = .elapsed (t.timeMs - ts) :: s.trace ∧ t.timeMs = s.timeMs + s.nextInput.advanceMs ∧
      (t.seq.phase = .rLatchLo ↔ t.timeMs - ts < d.toNat) ∧
      (t.seq.phase = .bLatchLo ↔ d.toNat ≤ t.timeMs - ts) ∧ t.t0 = s.t0 ∧ t.dur = s.dur ∧ t.f = s.f ∧
      t.latch = s.latch ∧ t.clock = s.clock ∧ t.data = s.data ∧ t.sr = s.sr ∧ t.out = s.out)

/-- R89, R90, R96, R21: a hold begins where the load raises `LATCH`; it has no step of its own until the clock has
advanced `TIME_MS` by `POV_DELAY_MS` since then, and only the clock moves; then it ends, is recorded as one `Sleep`, and
leaves the lines, the chain and the frame as they are, "so the digit just loaded stays lit". That the start is a field,
what begins every step (`beginStep`), and that the event is recorded when it is over, are the model's (log entries 2,
12, 13, 14). -/
def Obligations.HoldKeepsTheDigitLit : Prop :=
  ∀ s : State, s.nextInput.reset = false →
    (s.seq.phase = .rLatchHi → ∃ t, step s = .next t ∧ t.seq = ⟨.rHold, s.seq.pos, 0⟩ ∧ t.latch = .high ∧
      t.timeMs = s.timeMs + s.nextInput.advanceMs ∧ t.sleepStart = some t.timeMs) ∧
    (∀ start, s.seq.phase = .rHold → s.sleepStart = some start →
      (s.timeMs + s.nextInput.advanceMs < start + s.params.povDelayMs → step s = .next s.beginStep) ∧
      (start + s.params.povDelayMs ≤ s.timeMs + s.nextInput.advanceMs → ∃ t, step s = .next t ∧
        t.seq.phase ≠ .rHold ∧ t.sleepStart = none ∧ t.trace = .sleep s.params.povDelayMs :: s.trace ∧
        t.timeMs = s.timeMs + s.nextInput.advanceMs ∧ t.latch = s.latch ∧ t.clock = s.clock ∧ t.data = s.data ∧
        t.sr = s.sr ∧ t.out = s.out ∧ t.f = s.f ∧ t.t0 = s.t0 ∧ t.dur = s.dur))

/-- R93: with duration zero the two steps after the start go straight to the blanking, with no load: one stamp, one
elapsed-time query, no change of a line or of the chain. -/
def Obligations.ZeroDurationScansNothing : Prop :=
  ∀ s : State, s.seq.phase = .rStamp → s.dur = some 0#32 → s.NoReset →
    ∃ t a b, runSteps 2 s = .next t ∧ t.seq = ⟨.bLatchLo, 0, 0⟩ ∧
      t.trace = .elapsed a :: .stamp b :: s.trace ∧ t.latch = s.latch ∧ t.clock = s.clock ∧ t.data = s.data ∧
      t.sr = s.sr ∧ t.out = s.out

/-- R90, R102: the load of a position takes twenty steps from its latch-low to its latch-high and leaves both bytes on
the chain's outputs, the segment byte in the near register and the select byte reversed in the far one, whatever the
chain held and however the clock moved; its four events are the four of R45, with the configured pins. The number of
steps rests on the pin-level steps the model takes (log entry 11). -/
def Obligations.LoadCommitsBothBytes : Prop :=
  ∀ (s : State) (seg lp cp dp : Byte) (pol : Polarity),
    s.Inv → s.NoReset → s.seq.phase = .rLatchLo → s.f.get s.seq.pos = some seg → s.latchPin = some lp →
    s.clockPin = some cp → s.dataPin = some dp → s.polarity = some pol →
    ∃ t, runSteps 20 s = .next t ∧ t.seq = ⟨.rHold, s.seq.pos, 0⟩ ∧
      t.sr = loadedStages (selByte s.params pol s.seq.pos) seg ∧ t.out = t.sr ∧ t.latch = .high ∧
      t.clock = .low ∧ t.f = s.f ∧ t.t0 = s.t0 ∧ t.dur = s.dur ∧ s.SameConfiguration t ∧
      t.trace = .setLevel .latch lp .high :: .shiftOut dp cp .msbFirst seg ::
        .shiftOut dp cp .lsbFirst (selByte s.params pol s.seq.pos) :: .setLevel .latch lp .low :: s.trace

/-- R94, R103 (a), (e), R104: from the end of the scan twenty-one steps blank the display and complete the command: the
chain and its outputs are zero, `LATCH` is High, `CLOCK` and `DATA` are Low, `RSP_DONE` is pulsed, `BUSY` is 0 and
the frame is gone. The number of steps rests on the pin-level steps the model takes (log entry 11). -/
def Obligations.BlankingClearsTheChain : Prop :=
  ∀ (s : State) (lp cp dp : Byte),
    s.Inv → s.NoReset → s.seq.phase = .bLatchLo → s.latchPin = some lp → s.clockPin = some cp →
    s.dataPin = some dp →
    ∃ t, runSteps 21 s = .next t ∧ t.seq.phase = .idle ∧ t.busy = false ∧ t.rspDone = true ∧
      t.sr = stagesOf 0#16 ∧ t.out = stagesOf 0#16 ∧ t.latch = .high ∧ t.clock = .low ∧ t.data = .low ∧
      t.f = Vector.replicate 8 none ∧ t.t0 = none ∧ t.dur = none ∧ s.SameConfiguration t ∧
      t.trace = .rspDone :: .setLevel .latch lp .high :: .shiftOut dp cp .msbFirst 0#8 ::
        .shiftOut dp cp .lsbFirst 0#8 :: .setLevel .latch lp .low :: s.trace

/-- R97 (d): a scan ends, under both values of `EXIT_CHECK` and for every hold time, zero included, where the clock
agent is fair: as soon as it has moved the clock in `scanMoves` of the steps, the scan is over, and twenty-one steps
later the command has completed with the chain at zero. A clock that does not stand still for ever (`FairClock`) moves
that often within some number of steps. The count of steps is the model's (log entries 11, 12). -/
def Obligations.ScanTerminatesAndBlanks : Prop :=
  ∀ (s : State) (d : Word) (steps : ℕ), s.Inv → s.NoReset → s.seq.phase = .rStamp → s.dur = some d →
    s.scanMoves d ≤ s.clockMovesWithin steps →
    ∃ k t, k ≤ steps + 21 ∧ runSteps k s = .next t ∧ t.seq.phase = .idle ∧ t.rspDone = true ∧
      t.busy = false ∧ t.sr = stagesOf 0#16 ∧ t.out = stagesOf 0#16

/-- R95, R97 (b): a scan under PerPass that a fair clock agent ends emits exactly these events, in this order: the
stamp, then for each elapsed-time answer below `DUR` that answer and N whole loads in position order, then one answer
not below `DUR`, then the blanking and the completion. The answers are what the clock gave; the `j`-th is at least `j`
times the holds of a pass, so that where a pass takes time there are at most `ceil(DUR / (N * POV_DELAY_MS))` of them.
The count of steps and the form of the trace are the model's (log entries 11, 12, 14). -/
def Obligations.ScanEmitsItsTrace : Prop :=
  ∀ (s : State) (d : Word) (lp cp dp : Byte) (pol : Polarity) (steps : ℕ),
    s.Inv → s.NoReset → s.seq.phase = .rStamp → s.dur = some d → s.scanMoves d ≤ s.clockMovesWithin steps →
    s.params.exitCheck = .perPass → s.latchPin = some lp → s.clockPin = some cp → s.dataPin = some dp →
    s.polarity = some pol →
    ∃ (k : ℕ) (t : State) (stamp : ℕ) (answers : List ℕ) (last : ℕ),
      k ≤ steps + 21 ∧ runSteps k s = .next t ∧ t.seq.phase = .idle ∧ t.rspDone = true ∧ s.timeMs ≤ stamp ∧
      (∀ a ∈ answers, a < d.toNat) ∧ d.toNat ≤ last ∧
      (∀ (j : ℕ) (h : j < answers.length), j * (s.n * s.params.povDelayMs) ≤ answers[j]) ∧
      (0 < s.n * s.params.povDelayMs → answers.length ≤ (d.toNat + s.n * s.params.povDelayMs - 1) /
        (s.n * s.params.povDelayMs)) ∧
      t.trace.reverse = s.trace.reverse ++
        scanEvents stamp answers last s.n (fun i =>
          loadEvents lp cp dp (selByte s.params pol i) (s.frameByte i) s.params.povDelayMs) ++
        blankEvents lp cp dp ++ [.rspDone]

/-- R16, R17, R104: the completion of every command pulses `RSP_DONE`, clears `BUSY`, and leaves no value in `F`, `T0`
and `DUR`; lines and chain keep what they hold. -/
def Obligations.CompletionDiscardsTheFrame : Prop :=
  ∀ s : State, s.seq.phase = .done → s.nextInput.reset = false →
    ∃ t, step s = .next t ∧ t.rspDone = true ∧ t.busy = false ∧ t.f = Vector.replicate 8 none ∧ t.t0 = none ∧
      t.dur = none ∧ t.seq.phase = .idle ∧ s.SameConfiguration t ∧ t.latch = s.latch ∧ t.clock = s.clock ∧
      t.data = s.data ∧ t.sr = s.sr ∧ t.out = s.out ∧ t.trace = .rspDone :: s.trace

/-! ### The lines and the chain -/

/-- R100, R101: the chain shifts by one place, toward higher stages, on a Low-to-High transition of `CLOCK` and at no
other change, and copies all sixteen stages to its outputs on a Low-to-High transition of `LATCH` and at no other
change. That a line going from Undriven to High makes no such transition is the model's reading (log entry 24). -/
def Obligations.ChainReactsToRisingEdges : Prop :=
  ∀ (s : State) (level : Level),
    (s.clock = .low → (s.drive .clock .high).sr.get 0 = some (decide (s.data = .high)) ∧
      ∀ k : Fin 15, (s.drive .clock .high).sr.get k.succ = s.sr.get k.castSucc) ∧
    (s.clock ≠ .low ∨ level ≠ .high → (s.drive .clock level).sr = s.sr) ∧
    (s.drive .data level).sr = s.sr ∧ (s.drive .latch level).sr = s.sr ∧
    (s.latch = .low → (s.drive .latch .high).out = s.sr) ∧
    (s.latch ≠ .low ∨ level ≠ .high → (s.drive .latch level).out = s.out) ∧
    (s.drive .data level).out = s.out ∧ (s.drive .clock level).out = s.out

/-- R19, R86, R105: while `RESET` is not asserted, `LATCH` changes only in the four phases that set it, `CLOCK` and
`DATA` only in the four phases that shift a byte, and each of them also by the CONFIG that configures the block. -/
def Obligations.LinesChangeOnlyWhereDriven : Prop :=
  ∀ s t : State, s.nextInput.reset = false → step s = .next t →
    (t.latch ≠ s.latch → s.seq.phase = .rLatchLo ∨ s.seq.phase = .rLatchHi ∨ s.seq.phase = .bLatchLo ∨
      s.seq.phase = .bLatchHi ∨ (s.configured = false ∧ t.configured = true ∧ t.latch = .low)) ∧
    (t.clock ≠ s.clock ∨ t.data ≠ s.data → s.seq.phase.shifting = true ∨
      (s.configured = false ∧ t.configured = true ∧ t.clock = .low ∧ t.data = .low))

/-- R41, R43, R101: no step changes the chain's outputs but one that raises the latch line. -/
def Obligations.OutputsChangeOnlyAtLatchHigh : Prop :=
  ∀ s t : State, step s = .next t → t.out ≠ s.out →
    (s.seq.phase = .rLatchHi ∨ s.seq.phase = .bLatchHi) ∧ t.out = s.sr ∧ t.latch = .high

/-- R40, R99, R100, R137: while a byte is shifted every step puts its next bit, in its order, on `DATA`, pulses `CLOCK`
and moves the chain exactly one place; no other step moves it. One step per pulse is the model's (log entry 11). -/
def Obligations.EachPulseShiftsOnePlace : Prop :=
  ∀ s t : State, s.Inv → step s = .next t →
    (s.nextInput.reset = false → s.seq.phase.shifting = true → s.seq.bitcnt.val < 8 →
      let bit := wireBit s.shiftingByte.1 s.shiftingByte.2 s.seq.bitcnt.val
      t.sr = shiftIn bit s.sr ∧ t.data = levelOfBit bit ∧ t.clock = .low ∧ t.latch = .low) ∧
    (s.nextInput.reset = true ∨ s.seq.phase.shifting = false ∨ 8 ≤ s.seq.bitcnt.val → t.sr = s.sr)

/-- R91: the select byte of a position is the table's entry, inverted under CommonCathode; with the default table and
position 2 it is 0xFB and 0x04; and for every admissible table (R8) it has exactly one bit at the active level (0 under
CommonCathode, 1 under CommonAnode). -/
def Obligations.SelectByteHasOneActiveBit : Prop :=
  (∀ (p : Params) (i : Fin 8),
    selByte p .commonCathode i = ~~~(selEntry p i) ∧ selByte p .commonAnode i = selEntry p i ∧
    (p.Wf → ∃ k : Fin 8, ∀ j : Fin 8, (selByte p .commonCathode i).getLsbD j.val = decide (j ≠ k) ∧
      (selByte p .commonAnode i).getLsbD j.val = decide (j = k))) ∧
  ∀ d : ℕ, selByte (defaultParams d) .commonCathode 2 = 0xFB#8 ∧
    selByte (defaultParams d) .commonAnode 2 = 0x04#8

/-! ### Tables, reset and the whole machine -/

/-- R36 to R39, R8, R35: the default tables have the bytes the spec lists and meet its constraints, among them that no
glyph, digit, letter, minus or blank, has the bit of the decimal point. -/
def Obligations.DefaultTablesAreTheListedOnes : Prop :=
  ∀ d : ℕ,
    (List.finRange 10).map (glyphDigit (defaultParams d)) =
      [0x3F, 0x06, 0x5B, 0x4F, 0x66, 0x6D, 0x7D, 0x07, 0x7F, 0x6F] ∧
    (List.finRange 26).map (glyphLetter (defaultParams d)) =
      [0x77, 0x7C, 0x39, 0x5E, 0x79, 0x71, 0x3D, 0x76, 0x30, 0x1E, 0x75, 0x38, 0x15, 0x54, 0x3F, 0x73, 0x67,
       0x50, 0x6D, 0x78, 0x3E, 0x1C, 0x2A, 0x76, 0x6E, 0x5B] ∧
    glyphMinus (defaultParams d) = 0x40 ∧ glyphBlank (defaultParams d) = 0x00 ∧
    (defaultParams d).dpBit = 0x80 ∧ (∀ i, selEntry (defaultParams d) i = 1#8 <<< i.val) ∧
    (defaultParams d).Wf

/-- R135: asserting `RESET` puts the block in the state of the table whatever it was doing, without blanking, and
changes neither the chain nor the clock nor the tables; the state right after power-up and reset is that state, with
nothing known of the chain (R20). What reset leaves of the model's own fields, and that it empties the operand latch
and ends a sleep, is the model's (log entries 12, 18), and so is `EXIT_CHECK = PerPass` at reset (log entry 7). -/
def Obligations.ResetAbandonsWhateverRuns : Prop :=
  (∀ s : State, s.nextInput.reset = true →
    ∃ t, step s = .next t ∧ t.BlockReset ∧ t.sr = s.sr ∧ t.out = s.out ∧ t.params = s.params ∧
      t.timeMs = s.timeMs + s.nextInput.advanceMs ∧ t.trace = s.trace) ∧
  State.reset.BlockReset ∧ State.reset.sr = Vector.replicate 16 none ∧
  State.reset.out = Vector.replicate 16 none ∧ State.reset.params.exitCheck = .perPass

/-- R21: `TIME_MS` never decreases: every step leaves it where the clock agent has moved it, and the block moves it
nowhere. -/
def Obligations.TimeNeverDecreases : Prop :=
  ∀ s t : State, step s = .next t → t.timeMs = s.timeMs + s.nextInput.advanceMs ∧ s.timeMs ≤ t.timeMs

/-- R12, R13: from CONFIG until reset no step changes a configuration register. -/
def Obligations.ConfigurationIsImmutable : Prop :=
  ∀ s t : State, s.configured = true → s.nextInput.reset = false → step s = .next t → s.SameConfiguration t

/-- R30: "no mutation ever occurs": no step changes the tables or another build-time parameter. -/
def Obligations.TablesNeverChange : Prop :=
  ∀ s t : State, step s = .next t → t.params = s.params

/-- The state right after reset meets the invariant of Safety.lean. -/
def Obligations.ResetMeetsTheInvariant : Prop := State.reset.Inv

/-- Every step keeps the invariant of Safety.lean: a valid configuration once configured (R12, R13), `BUSY` exactly
outside `IDLE` (R14), operands latched in `ENCODE` only (R23, R96), `BITCNT` 0 outside the shifting phases (R96),
`CLOCK` Low between pulses (R137), `LATCH` Low during a load and High during its hold (R90), `POS` below N (R18), a
whole frame in use and none between commands (R15, R16), a stamp that lies in the past (R21), a sleep in the hold only,
since a time in the past (R89), and no blanking before the duration has run out (R92). That the operands and the start
of a sleep are fields is the model's (log entries 10, 12). -/
def Obligations.EveryStepKeepsTheInvariant : Prop :=
  ∀ s t : State, s.Inv → step s = .next t → t.Inv

/-- R97 (d), R92: while the clock has not carried `Elapsed(T0)` to `DUR` the scan goes on: no step leaves it, blanks
or completes. -/
def Obligations.ScanGoesOnUntilTheDurationRunsOut : Prop :=
  ∀ (s t : State) (stamp : ℕ) (d : Word), s.Inv → s.nextInput.reset = false → s.seq.phase.scanning = true →
    s.t0 = some stamp → s.dur = some d → step s = .next t → t.timeMs - stamp < d.toNat →
    t.seq.phase.scanning = true ∧ t.seq.phase.blanking = false ∧ t.t0 = some stamp ∧ t.dur = some d ∧
      t.busy = true ∧ t.rspDone = false
end

