-- ==== Sys2Proof/Laws/State.lean ====
section
/-!
SUPPORT. One lemma per field per update of the state, for the shared operations of Machine/Ops.lean and RENDER's start.
-/

namespace Sys2Proof.Machine

/-! `loadFrame` -/

@[simp] theorem State.loadFrame_params (g : List Byte) (s : State) : (s.loadFrame g).params = s.params := rfl
@[simp] theorem State.loadFrame_latchPin (g : List Byte) (s : State) : (s.loadFrame g).latchPin = s.latchPin := rfl
@[simp] theorem State.loadFrame_clockPin (g : List Byte) (s : State) : (s.loadFrame g).clockPin = s.clockPin := rfl
@[simp] theorem State.loadFrame_dataPin (g : List Byte) (s : State) : (s.loadFrame g).dataPin = s.dataPin := rfl
@[simp] theorem State.loadFrame_polarity (g : List Byte) (s : State) : (s.loadFrame g).polarity = s.polarity := rfl
@[simp] theorem State.loadFrame_digitCount (g : List Byte) (s : State) : (s.loadFrame g).digitCount = s.digitCount := rfl
@[simp] theorem State.loadFrame_configured (g : List Byte) (s : State) : (s.loadFrame g).configured = s.configured := rfl
@[simp] theorem State.loadFrame_busy (g : List Byte) (s : State) : (s.loadFrame g).busy = s.busy := rfl
@[simp] theorem State.loadFrame_f (g : List Byte) (s : State) : (s.loadFrame g).f = writeFrame s.f g := rfl
@[simp] theorem State.loadFrame_t0 (g : List Byte) (s : State) : (s.loadFrame g).t0 = s.t0 := rfl
@[simp] theorem State.loadFrame_dur (g : List Byte) (s : State) : (s.loadFrame g).dur = s.dur := rfl
@[simp] theorem State.loadFrame_sleepStart (g : List Byte) (s : State) : (s.loadFrame g).sleepStart = s.sleepStart := rfl
@[simp] theorem State.loadFrame_seq (g : List Byte) (s : State) : (s.loadFrame g).seq = s.seq := rfl
@[simp] theorem State.loadFrame_latched (g : List Byte) (s : State) : (s.loadFrame g).latched = s.latched := rfl
@[simp] theorem State.loadFrame_latch (g : List Byte) (s : State) : (s.loadFrame g).latch = s.latch := rfl
@[simp] theorem State.loadFrame_clock (g : List Byte) (s : State) : (s.loadFrame g).clock = s.clock := rfl
@[simp] theorem State.loadFrame_data (g : List Byte) (s : State) : (s.loadFrame g).data = s.data := rfl
@[simp] theorem State.loadFrame_rspFrame (g : List Byte) (s : State) : (s.loadFrame g).rspFrame = s.rspFrame := rfl
@[simp] theorem State.loadFrame_rspDone (g : List Byte) (s : State) : (s.loadFrame g).rspDone = s.rspDone := rfl
@[simp] theorem State.loadFrame_sr (g : List Byte) (s : State) : (s.loadFrame g).sr = s.sr := rfl
@[simp] theorem State.loadFrame_out (g : List Byte) (s : State) : (s.loadFrame g).out = s.out := rfl
@[simp] theorem State.loadFrame_timeMs (g : List Byte) (s : State) : (s.loadFrame g).timeMs = s.timeMs := rfl
@[simp] theorem State.loadFrame_hostProgram (g : List Byte) (s : State) : (s.loadFrame g).hostProgram = s.hostProgram := rfl
@[simp] theorem State.loadFrame_platform (g : List Byte) (s : State) : (s.loadFrame g).platform = s.platform := rfl
@[simp] theorem State.loadFrame_ticks (g : List Byte) (s : State) : (s.loadFrame g).ticks = s.ticks := rfl
@[simp] theorem State.loadFrame_trace (g : List Byte) (s : State) : (s.loadFrame g).trace = s.trace := rfl

/-! `goto` -/

@[simp] theorem State.goto_params (ph : Phase) (s : State) : (s.goto ph).params = s.params := rfl
@[simp] theorem State.goto_latchPin (ph : Phase) (s : State) : (s.goto ph).latchPin = s.latchPin := rfl
@[simp] theorem State.goto_clockPin (ph : Phase) (s : State) : (s.goto ph).clockPin = s.clockPin := rfl
@[simp] theorem State.goto_dataPin (ph : Phase) (s : State) : (s.goto ph).dataPin = s.dataPin := rfl
@[simp] theorem State.goto_polarity (ph : Phase) (s : State) : (s.goto ph).polarity = s.polarity := rfl
@[simp] theorem State.goto_digitCount (ph : Phase) (s : State) : (s.goto ph).digitCount = s.digitCount := rfl
@[simp] theorem State.goto_configured (ph : Phase) (s : State) : (s.goto ph).configured = s.configured := rfl
@[simp] theorem State.goto_busy (ph : Phase) (s : State) : (s.goto ph).busy = s.busy := rfl
@[simp] theorem State.goto_f (ph : Phase) (s : State) : (s.goto ph).f = s.f := rfl
@[simp] theorem State.goto_t0 (ph : Phase) (s : State) : (s.goto ph).t0 = s.t0 := rfl
@[simp] theorem State.goto_dur (ph : Phase) (s : State) : (s.goto ph).dur = s.dur := rfl
@[simp] theorem State.goto_sleepStart (ph : Phase) (s : State) : (s.goto ph).sleepStart = s.sleepStart := rfl
@[simp] theorem State.goto_seq (ph : Phase) (s : State) : (s.goto ph).seq = ⟨ph, s.seq.pos, 0⟩ := rfl
@[simp] theorem State.goto_latched (ph : Phase) (s : State) : (s.goto ph).latched = s.latched := rfl
@[simp] theorem State.goto_latch (ph : Phase) (s : State) : (s.goto ph).latch = s.latch := rfl
@[simp] theorem State.goto_clock (ph : Phase) (s : State) : (s.goto ph).clock = s.clock := rfl
@[simp] theorem State.goto_data (ph : Phase) (s : State) : (s.goto ph).data = s.data := rfl
@[simp] theorem State.goto_rspFrame (ph : Phase) (s : State) : (s.goto ph).rspFrame = s.rspFrame := rfl
@[simp] theorem State.goto_rspDone (ph : Phase) (s : State) : (s.goto ph).rspDone = s.rspDone := rfl
@[simp] theorem State.goto_sr (ph : Phase) (s : State) : (s.goto ph).sr = s.sr := rfl
@[simp] theorem State.goto_out (ph : Phase) (s : State) : (s.goto ph).out = s.out := rfl
@[simp] theorem State.goto_timeMs (ph : Phase) (s : State) : (s.goto ph).timeMs = s.timeMs := rfl
@[simp] theorem State.goto_hostProgram (ph : Phase) (s : State) : (s.goto ph).hostProgram = s.hostProgram := rfl
@[simp] theorem State.goto_platform (ph : Phase) (s : State) : (s.goto ph).platform = s.platform := rfl
@[simp] theorem State.goto_ticks (ph : Phase) (s : State) : (s.goto ph).ticks = s.ticks := rfl
@[simp] theorem State.goto_trace (ph : Phase) (s : State) : (s.goto ph).trace = s.trace := rfl

/-! `beginSleep` -/

@[simp] theorem State.beginSleep_params (s : State) : s.beginSleep.params = s.params := rfl
@[simp] theorem State.beginSleep_latchPin (s : State) : s.beginSleep.latchPin = s.latchPin := rfl
@[simp] theorem State.beginSleep_clockPin (s : State) : s.beginSleep.clockPin = s.clockPin := rfl
@[simp] theorem State.beginSleep_dataPin (s : State) : s.beginSleep.dataPin = s.dataPin := rfl
@[simp] theorem State.beginSleep_polarity (s : State) : s.beginSleep.polarity = s.polarity := rfl
@[simp] theorem State.beginSleep_digitCount (s : State) : s.beginSleep.digitCount = s.digitCount := rfl
@[simp] theorem State.beginSleep_configured (s : State) : s.beginSleep.configured = s.configured := rfl
@[simp] theorem State.beginSleep_busy (s : State) : s.beginSleep.busy = s.busy := rfl
@[simp] theorem State.beginSleep_f (s : State) : s.beginSleep.f = s.f := rfl
@[simp] theorem State.beginSleep_t0 (s : State) : s.beginSleep.t0 = s.t0 := rfl
@[simp] theorem State.beginSleep_dur (s : State) : s.beginSleep.dur = s.dur := rfl
@[simp] theorem State.beginSleep_sleepStart (s : State) : s.beginSleep.sleepStart = some s.timeMs := rfl
@[simp] theorem State.beginSleep_seq (s : State) : s.beginSleep.seq = s.seq := rfl
@[simp] theorem State.beginSleep_latched (s : State) : s.beginSleep.latched = s.latched := rfl
@[simp] theorem State.beginSleep_latch (s : State) : s.beginSleep.latch = s.latch := rfl
@[simp] theorem State.beginSleep_clock (s : State) : s.beginSleep.clock = s.clock := rfl
@[simp] theorem State.beginSleep_data (s : State) : s.beginSleep.data = s.data := rfl
@[simp] theorem State.beginSleep_rspFrame (s : State) : s.beginSleep.rspFrame = s.rspFrame := rfl
@[simp] theorem State.beginSleep_rspDone (s : State) : s.beginSleep.rspDone = s.rspDone := rfl
@[simp] theorem State.beginSleep_sr (s : State) : s.beginSleep.sr = s.sr := rfl
@[simp] theorem State.beginSleep_out (s : State) : s.beginSleep.out = s.out := rfl
@[simp] theorem State.beginSleep_timeMs (s : State) : s.beginSleep.timeMs = s.timeMs := rfl
@[simp] theorem State.beginSleep_hostProgram (s : State) : s.beginSleep.hostProgram = s.hostProgram := rfl
@[simp] theorem State.beginSleep_platform (s : State) : s.beginSleep.platform = s.platform := rfl
@[simp] theorem State.beginSleep_ticks (s : State) : s.beginSleep.ticks = s.ticks := rfl
@[simp] theorem State.beginSleep_trace (s : State) : s.beginSleep.trace = s.trace := rfl

/-! `emit` -/

@[simp] theorem State.emit_params (e : Event) (s : State) : (s.emit e).params = s.params := rfl
@[simp] theorem State.emit_latchPin (e : Event) (s : State) : (s.emit e).latchPin = s.latchPin := rfl
@[simp] theorem State.emit_clockPin (e : Event) (s : State) : (s.emit e).clockPin = s.clockPin := rfl
@[simp] theorem State.emit_dataPin (e : Event) (s : State) : (s.emit e).dataPin = s.dataPin := rfl
@[simp] theorem State.emit_polarity (e : Event) (s : State) : (s.emit e).polarity = s.polarity := rfl
@[simp] theorem State.emit_digitCount (e : Event) (s : State) : (s.emit e).digitCount = s.digitCount := rfl
@[simp] theorem State.emit_configured (e : Event) (s : State) : (s.emit e).configured = s.configured := rfl
@[simp] theorem State.emit_busy (e : Event) (s : State) : (s.emit e).busy = s.busy := rfl
@[simp] theorem State.emit_f (e : Event) (s : State) : (s.emit e).f = s.f := rfl
@[simp] theorem State.emit_t0 (e : Event) (s : State) : (s.emit e).t0 = s.t0 := rfl
@[simp] theorem State.emit_dur (e : Event) (s : State) : (s.emit e).dur = s.dur := rfl
@[simp] theorem State.emit_sleepStart (e : Event) (s : State) : (s.emit e).sleepStart = s.sleepStart := rfl
@[simp] theorem State.emit_seq (e : Event) (s : State) : (s.emit e).seq = s.seq := rfl
@[simp] theorem State.emit_latched (e : Event) (s : State) : (s.emit e).latched = s.latched := rfl
@[simp] theorem State.emit_latch (e : Event) (s : State) : (s.emit e).latch = s.latch := rfl
@[simp] theorem State.emit_clock (e : Event) (s : State) : (s.emit e).clock = s.clock := rfl
@[simp] theorem State.emit_data (e : Event) (s : State) : (s.emit e).data = s.data := rfl
@[simp] theorem State.emit_rspFrame (e : Event) (s : State) : (s.emit e).rspFrame = s.rspFrame := rfl
@[simp] theorem State.emit_rspDone (e : Event) (s : State) : (s.emit e).rspDone = s.rspDone := rfl
@[simp] theorem State.emit_sr (e : Event) (s : State) : (s.emit e).sr = s.sr := rfl
@[simp] theorem State.emit_out (e : Event) (s : State) : (s.emit e).out = s.out := rfl
@[simp] theorem State.emit_timeMs (e : Event) (s : State) : (s.emit e).timeMs = s.timeMs := rfl
@[simp] theorem State.emit_hostProgram (e : Event) (s : State) : (s.emit e).hostProgram = s.hostProgram := rfl
@[simp] theorem State.emit_platform (e : Event) (s : State) : (s.emit e).platform = s.platform := rfl
@[simp] theorem State.emit_ticks (e : Event) (s : State) : (s.emit e).ticks = s.ticks := rfl
@[simp] theorem State.emit_trace (e : Event) (s : State) : (s.emit e).trace = e :: s.trace := rfl

/-! `beginStep` -/

@[simp] theorem State.beginStep_params (s : State) : (s.beginStep).params = s.params := rfl
@[simp] theorem State.beginStep_latchPin (s : State) : (s.beginStep).latchPin = s.latchPin := rfl
@[simp] theorem State.beginStep_clockPin (s : State) : (s.beginStep).clockPin = s.clockPin := rfl
@[simp] theorem State.beginStep_dataPin (s : State) : (s.beginStep).dataPin = s.dataPin := rfl
@[simp] theorem State.beginStep_polarity (s : State) : (s.beginStep).polarity = s.polarity := rfl
@[simp] theorem State.beginStep_digitCount (s : State) : (s.beginStep).digitCount = s.digitCount := rfl
@[simp] theorem State.beginStep_configured (s : State) : (s.beginStep).configured = s.configured := rfl
@[simp] theorem State.beginStep_busy (s : State) : (s.beginStep).busy = s.busy := rfl
@[simp] theorem State.beginStep_f (s : State) : (s.beginStep).f = s.f := rfl
@[simp] theorem State.beginStep_t0 (s : State) : (s.beginStep).t0 = s.t0 := rfl
@[simp] theorem State.beginStep_dur (s : State) : (s.beginStep).dur = s.dur := rfl
@[simp] theorem State.beginStep_sleepStart (s : State) : (s.beginStep).sleepStart = s.sleepStart := rfl
@[simp] theorem State.beginStep_seq (s : State) : (s.beginStep).seq = s.seq := rfl
@[simp] theorem State.beginStep_latched (s : State) : (s.beginStep).latched = s.latched := rfl
@[simp] theorem State.beginStep_latch (s : State) : (s.beginStep).latch = s.latch := rfl
@[simp] theorem State.beginStep_clock (s : State) : (s.beginStep).clock = s.clock := rfl
@[simp] theorem State.beginStep_data (s : State) : (s.beginStep).data = s.data := rfl
@[simp] theorem State.beginStep_rspFrame (s : State) : (s.beginStep).rspFrame = if s.rspDone then none else s.rspFrame := rfl
@[simp] theorem State.beginStep_rspDone (s : State) : (s.beginStep).rspDone = false := rfl
@[simp] theorem State.beginStep_sr (s : State) : (s.beginStep).sr = s.sr := rfl
@[simp] theorem State.beginStep_out (s : State) : (s.beginStep).out = s.out := rfl
@[simp] theorem State.beginStep_timeMs (s : State) : (s.beginStep).timeMs = s.timeMs + s.nextInput.advanceMs := rfl
@[simp] theorem State.beginStep_hostProgram (s : State) : (s.beginStep).hostProgram = s.hostProgram := rfl
@[simp] theorem State.beginStep_platform (s : State) : (s.beginStep).platform = s.platform.tail := rfl
@[simp] theorem State.beginStep_ticks (s : State) : (s.beginStep).ticks = s.ticks + 1 := rfl
@[simp] theorem State.beginStep_trace (s : State) : (s.beginStep).trace = s.trace := rfl

/-! `assertReset` -/

@[simp] theorem State.assertReset_params (s : State) : (s.assertReset).params = s.params := rfl
@[simp] theorem State.assertReset_latchPin (s : State) : (s.assertReset).latchPin = none := rfl
@[simp] theorem State.assertReset_clockPin (s : State) : (s.assertReset).clockPin = none := rfl
@[simp] theorem State.assertReset_dataPin (s : State) : (s.assertReset).dataPin = none := rfl
@[simp] theorem State.assertReset_polarity (s : State) : (s.assertReset).polarity = none := rfl
@[simp] theorem State.assertReset_digitCount (s : State) : (s.assertReset).digitCount = none := rfl
@[simp] theorem State.assertReset_configured (s : State) : (s.assertReset).configured = false := rfl
@[simp] theorem State.assertReset_busy (s : State) : (s.assertReset).busy = false := rfl
@[simp] theorem State.assertReset_f (s : State) : (s.assertReset).f = Vector.replicate 8 none := rfl
@[simp] theorem State.assertReset_t0 (s : State) : (s.assertReset).t0 = none := rfl
@[simp] theorem State.assertReset_dur (s : State) : (s.assertReset).dur = none := rfl
@[simp] theorem State.assertReset_sleepStart (s : State) : (s.assertReset).sleepStart = none := rfl
@[simp] theorem State.assertReset_seq (s : State) : (s.assertReset).seq = ⟨.idle, 0, 0⟩ := rfl
@[simp] theorem State.assertReset_latched (s : State) : (s.assertReset).latched = none := rfl
@[simp] theorem State.assertReset_latch (s : State) : (s.assertReset).latch = .undriven := rfl
@[simp] theorem State.assertReset_clock (s : State) : (s.assertReset).clock = .undriven := rfl
@[simp] theorem State.assertReset_data (s : State) : (s.assertReset).data = .undriven := rfl
@[simp] theorem State.assertReset_rspFrame (s : State) : (s.assertReset).rspFrame = none := rfl
@[simp] theorem State.assertReset_rspDone (s : State) : (s.assertReset).rspDone = false := rfl
@[simp] theorem State.assertReset_sr (s : State) : (s.assertReset).sr = s.sr := rfl
@[simp] theorem State.assertReset_out (s : State) : (s.assertReset).out = s.out := rfl
@[simp] theorem State.assertReset_timeMs (s : State) : (s.assertReset).timeMs = s.timeMs := rfl
@[simp] theorem State.assertReset_hostProgram (s : State) : (s.assertReset).hostProgram = s.hostProgram := rfl
@[simp] theorem State.assertReset_platform (s : State) : (s.assertReset).platform = s.platform := rfl
@[simp] theorem State.assertReset_ticks (s : State) : (s.assertReset).ticks = s.ticks := rfl
@[simp] theorem State.assertReset_trace (s : State) : (s.assertReset).trace = s.trace := rfl

/-! `accept` -/

@[simp] theorem State.accept_params (i : Instr) (s : State) : (s.accept i).params = s.params := rfl
@[simp] theorem State.accept_latchPin (i : Instr) (s : State) : (s.accept i).latchPin = s.latchPin := rfl
@[simp] theorem State.accept_clockPin (i : Instr) (s : State) : (s.accept i).clockPin = s.clockPin := rfl
@[simp] theorem State.accept_dataPin (i : Instr) (s : State) : (s.accept i).dataPin = s.dataPin := rfl
@[simp] theorem State.accept_polarity (i : Instr) (s : State) : (s.accept i).polarity = s.polarity := rfl
@[simp] theorem State.accept_digitCount (i : Instr) (s : State) : (s.accept i).digitCount = s.digitCount := rfl
@[simp] theorem State.accept_configured (i : Instr) (s : State) : (s.accept i).configured = s.configured := rfl
@[simp] theorem State.accept_busy (i : Instr) (s : State) : (s.accept i).busy = true := rfl
@[simp] theorem State.accept_f (i : Instr) (s : State) : (s.accept i).f = s.f := rfl
@[simp] theorem State.accept_t0 (i : Instr) (s : State) : (s.accept i).t0 = s.t0 := rfl
@[simp] theorem State.accept_dur (i : Instr) (s : State) : (s.accept i).dur = s.dur := rfl
@[simp] theorem State.accept_sleepStart (i : Instr) (s : State) : (s.accept i).sleepStart = s.sleepStart := rfl
@[simp] theorem State.accept_seq (i : Instr) (s : State) : (s.accept i).seq = ⟨.encode, s.seq.pos, 0⟩ := rfl
@[simp] theorem State.accept_latched (i : Instr) (s : State) : (s.accept i).latched = some i := rfl
@[simp] theorem State.accept_latch (i : Instr) (s : State) : (s.accept i).latch = s.latch := rfl
@[simp] theorem State.accept_clock (i : Instr) (s : State) : (s.accept i).clock = s.clock := rfl
@[simp] theorem State.accept_data (i : Instr) (s : State) : (s.accept i).data = s.data := rfl
@[simp] theorem State.accept_rspFrame (i : Instr) (s : State) : (s.accept i).rspFrame = s.rspFrame := rfl
@[simp] theorem State.accept_rspDone (i : Instr) (s : State) : (s.accept i).rspDone = s.rspDone := rfl
@[simp] theorem State.accept_sr (i : Instr) (s : State) : (s.accept i).sr = s.sr := rfl
@[simp] theorem State.accept_out (i : Instr) (s : State) : (s.accept i).out = s.out := rfl
@[simp] theorem State.accept_timeMs (i : Instr) (s : State) : (s.accept i).timeMs = s.timeMs := rfl
@[simp] theorem State.accept_hostProgram (i : Instr) (s : State) : (s.accept i).hostProgram = s.hostProgram := rfl
@[simp] theorem State.accept_platform (i : Instr) (s : State) : (s.accept i).platform = s.platform := rfl
@[simp] theorem State.accept_ticks (i : Instr) (s : State) : (s.accept i).ticks = s.ticks := rfl
@[simp] theorem State.accept_trace (i : Instr) (s : State) : (s.accept i).trace = s.trace := rfl

/-! `startRender` -/

@[simp] theorem State.startRender_params (g : List Byte) (d : Word) (s : State) : (s.startRender g d).params = s.params := rfl
@[simp] theorem State.startRender_latchPin (g : List Byte) (d : Word) (s : State) : (s.startRender g d).latchPin = s.latchPin := rfl
@[simp] theorem State.startRender_clockPin (g : List Byte) (d : Word) (s : State) : (s.startRender g d).clockPin = s.clockPin := rfl
@[simp] theorem State.startRender_dataPin (g : List Byte) (d : Word) (s : State) : (s.startRender g d).dataPin = s.dataPin := rfl
@[simp] theorem State.startRender_polarity (g : List Byte) (d : Word) (s : State) : (s.startRender g d).polarity = s.polarity := rfl
@[simp] theorem State.startRender_digitCount (g : List Byte) (d : Word) (s : State) : (s.startRender g d).digitCount = s.digitCount := rfl
@[simp] theorem State.startRender_configured (g : List Byte) (d : Word) (s : State) : (s.startRender g d).configured = s.configured := rfl
@[simp] theorem State.startRender_busy (g : List Byte) (d : Word) (s : State) : (s.startRender g d).busy = true := rfl
@[simp] theorem State.startRender_f (g : List Byte) (d : Word) (s : State) : (s.startRender g d).f = writeFrame s.f g := rfl
@[simp] theorem State.startRender_t0 (g : List Byte) (d : Word) (s : State) : (s.startRender g d).t0 = s.t0 := rfl
@[simp] theorem State.startRender_dur (g : List Byte) (d : Word) (s : State) : (s.startRender g d).dur = some d := rfl
@[simp] theorem State.startRender_sleepStart (g : List Byte) (d : Word) (s : State) : (s.startRender g d).sleepStart = s.sleepStart := rfl
@[simp] theorem State.startRender_seq (g : List Byte) (d : Word) (s : State) : (s.startRender g d).seq = ⟨.rStamp, s.seq.pos, 0⟩ := rfl
@[simp] theorem State.startRender_latched (g : List Byte) (d : Word) (s : State) : (s.startRender g d).latched = s.latched := rfl
@[simp] theorem State.startRender_latch (g : List Byte) (d : Word) (s : State) : (s.startRender g d).latch = s.latch := rfl
@[simp] theorem State.startRender_clock (g : List Byte) (d : Word) (s : State) : (s.startRender g d).clock = s.clock := rfl
@[simp] theorem State.startRender_data (g : List Byte) (d : Word) (s : State) : (s.startRender g d).data = s.data := rfl
@[simp] theorem State.startRender_rspFrame (g : List Byte) (d : Word) (s : State) : (s.startRender g d).rspFrame = s.rspFrame := rfl
@[simp] theorem State.startRender_rspDone (g : List Byte) (d : Word) (s : State) : (s.startRender g d).rspDone = s.rspDone := rfl
@[simp] theorem State.startRender_sr (g : List Byte) (d : Word) (s : State) : (s.startRender g d).sr = s.sr := rfl
@[simp] theorem State.startRender_out (g : List Byte) (d : Word) (s : State) : (s.startRender g d).out = s.out := rfl
@[simp] theorem State.startRender_timeMs (g : List Byte) (d : Word) (s : State) : (s.startRender g d).timeMs = s.timeMs := rfl
@[simp] theorem State.startRender_hostProgram (g : List Byte) (d : Word) (s : State) : (s.startRender g d).hostProgram = s.hostProgram := rfl
@[simp] theorem State.startRender_platform (g : List Byte) (d : Word) (s : State) : (s.startRender g d).platform = s.platform := rfl
@[simp] theorem State.startRender_ticks (g : List Byte) (d : Word) (s : State) : (s.startRender g d).ticks = s.ticks := rfl
@[simp] theorem State.startRender_trace (g : List Byte) (d : Word) (s : State) : (s.startRender g d).trace = s.trace := rfl

/-! `finishEncode`, whose two cases differ in `DUR` and in the phase -/

@[simp] theorem State.finishEncode_params (g : List Byte) (dur : Option Word) (s : State) :
    (s.finishEncode g dur).params = s.params := by cases dur <;> rfl
@[simp] theorem State.finishEncode_latchPin (g : List Byte) (dur : Option Word) (s : State) :
    (s.finishEncode g dur).latchPin = s.latchPin := by cases dur <;> rfl
@[simp] theorem State.finishEncode_clockPin (g : List Byte) (dur : Option Word) (s : State) :
    (s.finishEncode g dur).clockPin = s.clockPin := by cases dur <;> rfl
@[simp] theorem State.finishEncode_dataPin (g : List Byte) (dur : Option Word) (s : State) :
    (s.finishEncode g dur).dataPin = s.dataPin := by cases dur <;> rfl
@[simp] theorem State.finishEncode_polarity (g : List Byte) (dur : Option Word) (s : State) :
    (s.finishEncode g dur).polarity = s.polarity := by cases dur <;> rfl
@[simp] theorem State.finishEncode_digitCount (g : List Byte) (dur : Option Word) (s : State) :
    (s.finishEncode g dur).digitCount = s.digitCount := by cases dur <;> rfl
@[simp] theorem State.finishEncode_configured (g : List Byte) (dur : Option Word) (s : State) :
    (s.finishEncode g dur).configured = s.configured := by cases dur <;> rfl
@[simp] theorem State.finishEncode_busy (g : List Byte) (dur : Option Word) (s : State) :
    (s.finishEncode g dur).busy = s.busy := by cases dur <;> rfl
@[simp] theorem State.finishEncode_f (g : List Byte) (dur : Option Word) (s : State) :
    (s.finishEncode g dur).f = writeFrame s.f g := by cases dur <;> rfl
@[simp] theorem State.finishEncode_t0 (g : List Byte) (dur : Option Word) (s : State) :
    (s.finishEncode g dur).t0 = s.t0 := by cases dur <;> rfl
@[simp] theorem State.finishEncode_dur (g : List Byte) (dur : Option Word) (s : State) :
    (s.finishEncode g dur).dur = (dur.elim s.dur some) := by cases dur <;> rfl
@[simp] theorem State.finishEncode_sleepStart (g : List Byte) (dur : Option Word) (s : State) :
    (s.finishEncode g dur).sleepStart = s.sleepStart := by cases dur <;> rfl
@[simp] theorem State.finishEncode_seq (g : List Byte) (dur : Option Word) (s : State) :
    (s.finishEncode g dur).seq = ⟨dur.elim .respond fun _ => .rStamp, s.seq.pos, 0⟩ := by cases dur <;> rfl
@[simp] theorem State.finishEncode_latched (g : List Byte) (dur : Option Word) (s : State) :
    (s.finishEncode g dur).latched = none := by cases dur <;> rfl
@[simp] theorem State.finishEncode_latch (g : List Byte) (dur : Option Word) (s : State) :
    (s.finishEncode g dur).latch = s.latch := by cases dur <;> rfl
@[simp] theorem State.finishEncode_clock (g : List Byte) (dur : Option Word) (s : State) :
    (s.finishEncode g dur).clock = s.clock := by cases dur <;> rfl
@[simp] theorem State.finishEncode_data (g : List Byte) (dur : Option Word) (s : State) :
    (s.finishEncode g dur).data = s.data := by cases dur <;> rfl
@[simp] theorem State.finishEncode_rspFrame (g : List Byte) (dur : Option Word) (s : State) :
    (s.finishEncode g dur).rspFrame = s.rspFrame := by cases dur <;> rfl
@[simp] theorem State.finishEncode_rspDone (g : List Byte) (dur : Option Word) (s : State) :
    (s.finishEncode g dur).rspDone = s.rspDone := by cases dur <;> rfl
@[simp] theorem State.finishEncode_sr (g : List Byte) (dur : Option Word) (s : State) :
    (s.finishEncode g dur).sr = s.sr := by cases dur <;> rfl
@[simp] theorem State.finishEncode_out (g : List Byte) (dur : Option Word) (s : State) :
    (s.finishEncode g dur).out = s.out := by cases dur <;> rfl
@[simp] theorem State.finishEncode_timeMs (g : List Byte) (dur : Option Word) (s : State) :
    (s.finishEncode g dur).timeMs = s.timeMs := by cases dur <;> rfl
@[simp] theorem State.finishEncode_hostProgram (g : List Byte) (dur : Option Word) (s : State) :
    (s.finishEncode g dur).hostProgram = s.hostProgram := by cases dur <;> rfl
@[simp] theorem State.finishEncode_platform (g : List Byte) (dur : Option Word) (s : State) :
    (s.finishEncode g dur).platform = s.platform := by cases dur <;> rfl
@[simp] theorem State.finishEncode_ticks (g : List Byte) (dur : Option Word) (s : State) :
    (s.finishEncode g dur).ticks = s.ticks := by cases dur <;> rfl
@[simp] theorem State.finishEncode_trace (g : List Byte) (dur : Option Word) (s : State) :
    (s.finishEncode g dur).trace = s.trace := by cases dur <;> rfl

/-! `drive`: the fields no line touches, then each line -/

@[simp] theorem State.drive_params (line : Line) (level : Level) (s : State) :
    (s.drive line level).params = s.params := by cases line <;> rfl
@[simp] theorem State.drive_latchPin (line : Line) (level : Level) (s : State) :
    (s.drive line level).latchPin = s.latchPin := by cases line <;> rfl
@[simp] theorem State.drive_clockPin (line : Line) (level : Level) (s : State) :
    (s.drive line level).clockPin = s.clockPin := by cases line <;> rfl
@[simp] theorem State.drive_dataPin (line : Line) (level : Level) (s : State) :
    (s.drive line level).dataPin = s.dataPin := by cases line <;> rfl
@[simp] theorem State.drive_polarity (line : Line) (level : Level) (s : State) :
    (s.drive line level).polarity = s.polarity := by cases line <;> rfl
@[simp] theorem State.drive_digitCount (line : Line) (level : Level) (s : State) :
    (s.drive line level).digitCount = s.digitCount := by cases line <;> rfl
@[simp] theorem State.drive_configured (line : Line) (level : Level) (s : State) :
    (s.drive line level).configured = s.configured := by cases line <;> rfl
@[simp] theorem State.drive_busy (line : Line) (level : Level) (s : State) :
    (s.drive line level).busy = s.busy := by cases line <;> rfl
@[simp] theorem State.drive_f (line : Line) (level : Level) (s : State) :
    (s.drive line level).f = s.f := by cases line <;> rfl
@[simp] theorem State.drive_t0 (line : Line) (level : Level) (s : State) :
    (s.drive line level).t0 = s.t0 := by cases line <;> rfl
@[simp] theorem State.drive_dur (line : Line) (level : Level) (s : State) :
    (s.drive line level).dur = s.dur := by cases line <;> rfl
@[simp] theorem State.drive_sleepStart (line : Line) (level : Level) (s : State) :
    (s.drive line level).sleepStart = s.sleepStart := by cases line <;> rfl
@[simp] theorem State.drive_seq (line : Line) (level : Level) (s : State) :
    (s.drive line level).seq = s.seq := by cases line <;> rfl
@[simp] theorem State.drive_latched (line : Line) (level : Level) (s : State) :
    (s.drive line level).latched = s.latched := by cases line <;> rfl
@[simp] theorem State.drive_rspFrame (line : Line) (level : Level) (s : State) :
    (s.drive line level).rspFrame = s.rspFrame := by cases line <;> rfl
@[simp] theorem State.drive_rspDone (line : Line) (level : Level) (s : State) :
    (s.drive line level).rspDone = s.rspDone := by cases line <;> rfl
@[simp] theorem State.drive_timeMs (line : Line) (level : Level) (s : State) :
    (s.drive line level).timeMs = s.timeMs := by cases line <;> rfl
@[simp] theorem State.drive_hostProgram (line : Line) (level : Level) (s : State) :
    (s.drive line level).hostProgram = s.hostProgram := by cases line <;> rfl
@[simp] theorem State.drive_platform (line : Line) (level : Level) (s : State) :
    (s.drive line level).platform = s.platform := by cases line <;> rfl
@[simp] theorem State.drive_ticks (line : Line) (level : Level) (s : State) :
    (s.drive line level).ticks = s.ticks := by cases line <;> rfl
@[simp] theorem State.drive_trace (line : Line) (level : Level) (s : State) :
    (s.drive line level).trace = s.trace := by cases line <;> rfl
@[simp] theorem State.drive_latch_latch (level : Level) (s : State) :
    (s.drive .latch level).latch = level := rfl
@[simp] theorem State.drive_latch_clock (level : Level) (s : State) :
    (s.drive .latch level).clock = s.clock := rfl
@[simp] theorem State.drive_latch_data (level : Level) (s : State) :
    (s.drive .latch level).data = s.data := rfl
@[simp] theorem State.drive_latch_sr (level : Level) (s : State) :
    (s.drive .latch level).sr = s.sr := rfl
@[simp] theorem State.drive_latch_out (level : Level) (s : State) :
    (s.drive .latch level).out = if s.latch = .low ∧ level = .high then s.sr else s.out := rfl
@[simp] theorem State.drive_clock_latch (level : Level) (s : State) :
    (s.drive .clock level).latch = s.latch := rfl
@[simp] theorem State.drive_clock_clock (level : Level) (s : State) :
    (s.drive .clock level).clock = level := rfl
@[simp] theorem State.drive_clock_data (level : Level) (s : State) :
    (s.drive .clock level).data = s.data := rfl
@[simp] theorem State.drive_clock_sr (level : Level) (s : State) :
    (s.drive .clock level).sr = if s.clock = .low ∧ level = .high then shiftIn (decide (s.data = .high)) s.sr else s.sr := rfl
@[simp] theorem State.drive_clock_out (level : Level) (s : State) :
    (s.drive .clock level).out = s.out := rfl
@[simp] theorem State.drive_data_latch (level : Level) (s : State) :
    (s.drive .data level).latch = s.latch := rfl
@[simp] theorem State.drive_data_clock (level : Level) (s : State) :
    (s.drive .data level).clock = s.clock := rfl
@[simp] theorem State.drive_data_data (level : Level) (s : State) :
    (s.drive .data level).data = level := rfl
@[simp] theorem State.drive_data_sr (level : Level) (s : State) :
    (s.drive .data level).sr = s.sr := rfl
@[simp] theorem State.drive_data_out (level : Level) (s : State) :
    (s.drive .data level).out = s.out := rfl

/-! The readers see what the updates leave -/

@[simp] theorem State.goto_n (ph : Phase) (s : State) : (s.goto ph).n = s.n := rfl
@[simp] theorem State.goto_pol (ph : Phase) (s : State) : (s.goto ph).pol = s.pol := rfl
@[simp] theorem State.goto_stampValue (ph : Phase) (s : State) : (s.goto ph).stampValue = s.stampValue := rfl
@[simp] theorem State.goto_durMs (ph : Phase) (s : State) : (s.goto ph).durMs = s.durMs := rfl
@[simp] theorem State.goto_frame (ph : Phase) (s : State) : (s.goto ph).frame = s.frame := rfl
@[simp] theorem State.goto_pin (ph : Phase) (l : Line) (s : State) : (s.goto ph).pin l = s.pin l := by cases l <;> rfl
@[simp] theorem State.goto_frameByte (ph : Phase) (k : Fin 8) (s : State) :
    (s.goto ph).frameByte k = s.frameByte k := rfl
@[simp] theorem State.emit_n (e : Event) (s : State) : (s.emit e).n = s.n := rfl
@[simp] theorem State.emit_pol (e : Event) (s : State) : (s.emit e).pol = s.pol := rfl
@[simp] theorem State.emit_stampValue (e : Event) (s : State) : (s.emit e).stampValue = s.stampValue := rfl
@[simp] theorem State.emit_durMs (e : Event) (s : State) : (s.emit e).durMs = s.durMs := rfl
@[simp] theorem State.emit_frame (e : Event) (s : State) : (s.emit e).frame = s.frame := rfl
@[simp] theorem State.emit_pin (e : Event) (l : Line) (s : State) : (s.emit e).pin l = s.pin l := by cases l <;> rfl
@[simp] theorem State.emit_frameByte (e : Event) (k : Fin 8) (s : State) :
    (s.emit e).frameByte k = s.frameByte k := rfl
@[simp] theorem State.drive_n (line : Line) (level : Level) (s : State) : (s.drive line level).n = s.n := by cases line <;> rfl
@[simp] theorem State.drive_pol (line : Line) (level : Level) (s : State) : (s.drive line level).pol = s.pol := by cases line <;> rfl
@[simp] theorem State.drive_stampValue (line : Line) (level : Level) (s : State) : (s.drive line level).stampValue = s.stampValue := by cases line <;> rfl
@[simp] theorem State.drive_durMs (line : Line) (level : Level) (s : State) : (s.drive line level).durMs = s.durMs := by cases line <;> rfl
@[simp] theorem State.drive_frame (line : Line) (level : Level) (s : State) : (s.drive line level).frame = s.frame := by cases line <;> rfl
@[simp] theorem State.drive_pin (line : Line) (level : Level) (l : Line) (s : State) : (s.drive line level).pin l = s.pin l := by cases line <;> cases l <;> rfl
@[simp] theorem State.drive_frameByte (line : Line) (level : Level) (k : Fin 8) (s : State) :
    (s.drive line level).frameByte k = s.frameByte k := by cases line <;> rfl

end Sys2Proof.Machine
end

