-- ==== Sys2Proof/Laws/Encoder.lean ====
section
/-!
SUPPORT. The encoder's pure functions against the mathematics of Safety.lean: decimal digits, the rational of a
binary32 pattern, the rounding, the length and the bytes of every frame, and what the encode step writes.
-/

namespace Sys2Proof

theorem ndigitsBounded_eq (bound m : ℕ) (h : m < 2 ^ (bound + 1)) : ndigitsBounded bound m = decimalDigitCount m := by
  induction bound generalizing m with
  | zero =>
    have : m = 0 ∨ m = 1 := by omega
    rcases this with rfl | rfl <;> simp [ndigitsBounded, decimalDigitCount]
  | succ b ih =>
    unfold ndigitsBounded
    split
    · rename_i h10
      unfold decimalDigitCount
      interval_cases m <;> simp
    · rename_i h10
      rw [ih (m / 10) (by rw [pow_succ] at h; omega)]
      unfold decimalDigitCount
      rw [Nat.digits_def' (by norm_num) (by omega : 0 < m)]
      have : Nat.digits 10 (m / 10) ≠ [] := by
        rw [ne_eq, Nat.digits_eq_nil_iff_eq_zero]; omega
      have := List.length_pos_of_ne_nil this
      simp only [List.length_cons]; omega


theorem ndigits_eq (m : ℕ) : ndigits m = decimalDigitCount m := by
  apply ndigitsBounded_eq
  exact Nat.lt_log2_self


theorem layoutSlot_eq_specSlot (p : Params) (neg : Bool) (m mind j : ℕ) :
    layoutSlot p neg m mind j = specSlot p neg m mind j := by
  unfold layoutSlot specSlot
  simp only [ndigits_eq, digit, glyphOfUnits, Nat.getD_digits _ _ (by norm_num : 2 ≤ 10), and_comm]


theorem binary32Value_den_pos (w : Word) : 0 < (binary32Value w).den := by
  unfold binary32Value; simp only; split <;> positivity


theorem binary32_value (w : Word) : binary32Rational w =
    (if (binary32Value w).sign then -1 else 1) * (((binary32Value w).num : ℚ) / ((binary32Value w).den : ℚ)) := by
  have small (k : ℕ) (s : ℚ) (f : ℕ) :
      s * (f : ℚ) * (2 : ℚ) ^ (-(k : ℤ)) = s * ((f : ℚ) / ((2 ^ k : ℕ) : ℚ)) := by
    simp [div_eq_mul_inv, mul_assoc]
  by_cases h0 : binary32Exponent w = 0
  · have hv : binary32Value w = ⟨w.getLsbD 31, binary32Fraction w, 2 ^ 149⟩ := if_pos h0
    have hs : (binary32Value w).sign = w.getLsbD 31 := congrArg Decimal.sign hv
    have hn : (binary32Value w).num = binary32Fraction w := congrArg Decimal.num hv
    have hd : (binary32Value w).den = 2 ^ 149 := congrArg Decimal.den hv
    have hq : binary32Rational w = (if w.getLsbD 31 then -1 else 1) * (binary32Fraction w : ℚ) * 2 ^ (-149 : ℤ) :=
      if_pos h0
    rewrite [hs, hn, hd, hq]
    exact small 149 _ _
  · have hv : binary32Value w = ⟨w.getLsbD 31, (2 ^ 23 + binary32Fraction w) * 2 ^ (binary32Exponent w - 150),
        2 ^ (150 - binary32Exponent w)⟩ := if_neg h0
    have hq : binary32Rational w = (if w.getLsbD 31 then -1 else 1) * ((2 ^ 23 + binary32Fraction w : ℕ) : ℚ) *
        2 ^ ((binary32Exponent w : ℤ) - 150) := if_neg h0
    rw [hv, hq]
    generalize binary32Exponent w = e at *
    generalize (2 ^ 23 + binary32Fraction w) = m
    rewrite [mul_assoc]
    refine congrArg _ ?_
    rcases le_total e 150 with h | h
    · obtain ⟨d, hd⟩ := Nat.exists_eq_add_of_le h
      have : ((e : ℤ) - 150) = -(d : ℤ) := by omega
      rw [this]
      simp [show e - 150 = 0 by omega, show 150 - e = d by omega, div_eq_mul_inv]
    · obtain ⟨d, rfl⟩ := Nat.exists_eq_add_of_le h
      simp [show 150 - (150 + d) = 0 by omega]


theorem binary32_magnitude (w : Word) :
    |binary32Rational w| = ((binary32Value w).num : ℚ) / ((binary32Value w).den : ℚ) := by
  rw [binary32_value, abs_mul, abs_of_nonneg (a := _ / _) (by positivity)]
  split <;> simp


theorem binary32_sign (w : Word) : (binary32Value w).isNeg = decide (binary32Rational w < 0) := by
  have hd : (0 : ℚ) < (binary32Value w).den := by exact_mod_cast binary32Value_den_pos w
  rw [binary32_value, Decimal.isNeg]
  generalize (binary32Value w).den = d at *
  generalize (binary32Value w).num = n
  generalize (binary32Value w).sign = s
  have hq : (0 : ℚ) ≤ (n : ℚ) / d := by positivity
  cases s
  · simpa using hq
  · have : (0 : ℚ) < (n : ℚ) / d ↔ n ≠ 0 := by
      rw [div_pos_iff_of_pos_right hd]; simp [Nat.pos_iff_ne_zero]
    simp [this, bne]; cases n <;> simp


theorem scaled_eq (w : Word) (p : ℕ) :
    (binary32Value w).scaled p = rndRational (|binary32Rational w| * 10 ^ p) := by
  have hd := binary32Value_den_pos w
  unfold rndRational Decimal.scaled
  rw [binary32_magnitude, ← Nat.floor_div_eq_div (K := ℚ)]
  congr 1
  have : ((binary32Value w).den : ℚ) ≠ 0 := by positivity
  push_cast
  field_simp


theorem layout_get (p : Params) (neg : Bool) (m mind n k : ℕ) (h : k < n) :
    (layout p neg m mind n)[k]? = some (specSlot p neg m mind (n - 1 - k)) := by
  simp [layout, layoutSlot_eq_specSlot, h]

@[simp] theorem layout_length (p : Params) (neg : Bool) (m mind n : ℕ) : (layout p neg m mind n).length = n := by
  simp [layout]

@[simp] theorem decimalDigits_length (p : Params) (q : Decimal) (pl n : ℕ) : (decimalDigits p q pl n).length = n := by
  unfold decimalDigits; split <;> simp

@[simp] theorem decimalFrame_length (p : Params) (q : Decimal) (pl n : ℕ) : (decimalFrame p q pl n).length = n := by
  unfold decimalFrame; simp only; split <;> simp

@[simp] theorem textFrame_length (p : Params) (t : List Byte) (n : ℕ) : (textFrame p t n).length = n := by
  simp [textFrame]

@[simp] theorem integerFrame_length (p : Params) (v : ℤ) (n : ℕ) : (integerFrame p v n).length = n := by
  simp [integerFrame]

@[simp] theorem normalize_length (pol : Polarity) (g : List Byte) : (normalizeFrame pol g).length = g.length := by
  simp [normalizeFrame]

theorem decimalFrame_get (p : Params) (w : Word) (pl n k : ℕ) (h : k < n) :
    (decimalFrame p (binary32Value w) pl n)[k]? = some (specDecimalSlot p (binary32Rational w) pl n (n - 1 - k)) := by
  unfold decimalFrame specDecimalSlot decimalDigits
  simp only [scaled_eq, binary32_sign, pow_zero, mul_one]
  by_cases h0 : pl = 0
  · simp [h0, layout_get _ _ _ _ _ _ h]
  · simp only [h0, if_false]
    by_cases h1 : pl < n
    · simp only [h1, and_true, show 0 < pl by omega, if_true, true_and, List.getElem?_modify, layout_get _ _ _ _ _ _ h]
      by_cases h2 : n - pl - 1 = k
      · simp [h2, show n - 1 - k = pl by omega]
      · simp [h2, show ¬ (n - 1 - k = pl) by omega]
    · simp [h1, layout_get _ _ _ _ _ _ h]

theorem textFrame_get (p : Params) (t : List Byte) (n k : ℕ) (h : k < n) :
    (textFrame p t n)[k]? = some ((t[k]?.map (glyphOf p)).getD (glyphBlank p)) := by
  simp [textFrame, h]; cases t[k]? <;> rfl

namespace Machine

theorem writeFrame_get (f : Vector (Option Byte) 8) (g : List Byte) (k : Fin 8) :
    (writeFrame f g).get k = if h : k.val < g.length then some g[k.val] else f.get k := by
  simp [writeFrame, Vector.get_eq_getElem]
  grind

theorem frameWritten_of (s : State) (g : List Byte) (gl : g.length = s.n) (slot : ℕ → Byte)
    (hg : ∀ k, k < s.n → g[k]? = some (slot k)) (t : State) (ht : t.f = writeFrame s.f (normalizeFrame s.pol g)) :
    s.FrameWritten slot t := by
  intro k
  rw [ht, writeFrame_get]
  by_cases h : k.val < s.n
  · have := hg k h
    rw [List.getElem?_eq_some_iff] at this
    obtain ⟨h2, h3⟩ := this
    simp [gl, h, normalizeFrame, h3]
  · simp [gl, h]

theorem runEncoder_encode (i : Instr) (frame : List Byte) (dur : Option Word) (s : State)
    (hp : s.seq.phase = .encode) (hl : s.latched = some i) :
    runEncoder i none frame dur s = .next (s.finishEncode frame dur) := by
  simp [runEncoder, State.accepting, hp, hl]

end Machine

end Sys2Proof
end

