-- ==== Sys2Proof/Laws/Step.lean ====
section
/-!
SUPPORT. What a command's micro-step and a step of the machine can do, said once: one inversion lemma for `exec`, one
for `step`, and the run of several steps.
-/

namespace Sys2Proof.Machine

/-! ### Runs -/

@[simp] theorem runSteps_zero (s : State) : runSteps 0 s = .next s := rfl

theorem runSteps_succ {k : ℕ} {s t : State} (h : step s = .next t) : runSteps (k + 1) s = runSteps k t := by
  show Host.Core.run Sys2Proof.core (k + 1) s = Host.Core.run Sys2Proof.core k t
  simp only [Host.Core.run]
  have : Sys2Proof.core.step s = .next t := h
  rw [this]

theorem runSteps_add {j : ℕ} (k : ℕ) {s t : State} (h : runSteps j s = .next t) :
    runSteps (j + k) s = runSteps k t := by
  induction j generalizing s with
  | zero => simp at h; subst h; simp
  | succ j ih =>
    cases hs : step s with
    | next u =>
      rw [Nat.add_right_comm, runSteps_succ hs]
      rw [runSteps_succ hs] at h
      exact ih h
    | fault r => cases r
    | refused r =>
      have : runSteps (j + 1) s = .refused r := by
        show Host.Core.run Sys2Proof.core (j + 1) s = _
        simp only [Host.Core.run]
        have : Sys2Proof.core.step s = .refused r := hs
        rw [this]; rfl
      rw [this] at h; cases h

/-! ### One command -/

theorem accepting_iff (s : State) : s.accepting = true ↔ s.seq.phase = .idle ∧ s.busy = false := by
  simp [State.accepting, State.cmdReady]

/-- CONFIG's writes as one update; a line going Low is no edge the chain reacts to. -/
theorem configure_eq (latch clock data : Byte) (pol : Polarity) (digits : Byte) (s : State) :
    s.configure latch clock data pol digits = { s with
      latchPin := some latch, clockPin := some clock, dataPin := some data, polarity := some pol,
      digitCount := some (digitCountOperand digits), configured := true, busy := true,
      latch := .low, clock := .low, data := .low, seq := ⟨.done, s.seq.pos, 0⟩,
      trace := .setLevel .data data .low :: .setLevel .clock clock .low :: .setLevel .latch latch .low ::
        s.trace } := by
  simp [State.configure, State.setLevel, State.drive, State.emit, State.pin]

/-- Everything a command's micro-step can do when it goes on. -/
theorem exec_cases {i : Instr} {s t : State} (h : exec i s = .next t) :
    t = s ∨
    (s.accepting = true ∧ s.configured = false ∧ ∃ latch clock data pol digits,
      i = .config latch clock data pol digits ∧ digitsInContract digits = true ∧
      pinsDistinct latch clock data = true ∧ t = s.configure latch clock data pol digits) ∨
    (s.accepting = true ∧ s.configured = true ∧ encodesInContract i = true ∧ t = s.accept i) ∨
    (s.accepting = true ∧ s.configured = true ∧ ∃ frame dur,
      i = .render frame dur ∧ frame.length = s.n ∧ t = s.startRender frame dur) ∨
    (s.seq.phase = .encode ∧ s.latched = some i ∧ encodesInContract i = true ∧ ∃ frame dur,
      frame.length = s.n ∧ t = s.finishEncode frame dur) := by
  have run (stop : Option Refusal) (frame : List Byte) (dur : Option Word) (hlen : frame.length = s.n)
      (hc : stop = none → encodesInContract i = true) (h : runEncoder i stop frame dur s = .next t) :
      t = s ∨ (s.accepting = true ∧ s.configured = true ∧ encodesInContract i = true ∧ t = s.accept i) ∨
      (s.seq.phase = .encode ∧ s.latched = some i ∧ encodesInContract i = true ∧ ∃ frame dur,
        frame.length = s.n ∧ t = s.finishEncode frame dur) := by
    unfold runEncoder at h
    split at h
    · split at h
      · cases stop <;> simp at h
        exact .inr (.inl ⟨‹_›, ‹_›, hc rfl, h.symm⟩)
      · simp at h
    · split at h
      · cases stop <;> simp at h
        exact .inr (.inr ⟨(‹_ ∧ _› : _ ∧ _).1, (‹_ ∧ _› : _ ∧ _).2, hc rfl, frame, dur, hlen, h.symm⟩)
      · simp at h; exact .inl h.symm
  have lift {P Q R S T : Prop} (x : P ∨ R ∨ T) : P ∨ Q ∨ R ∨ S ∨ T := by tauto
  have dec (w : Word) : decimalStop w = none → binary32Finite w = true := by unfold decimalStop; split <;> simp_all
  cases i with
  | config latch clock data pol digits =>
    simp only [exec, execConfig] at h
    split at h
    · split at h
      · simp at h
      · split at h
        · split at h
          · simp at h; exact .inr (.inl ⟨‹_›, (by simpa using ‹¬s.configured = true›), _, _, _, _, _, rfl, ‹_›, ‹_›, h.symm⟩)
          · simp at h
        · simp at h
    · simp at h; exact .inl h.symm
  | render frame dur =>
    simp only [exec, execRender] at h
    split at h
    · split at h
      · split at h
        · simp at h; exact .inr (.inr (.inr (.inl ⟨‹_›, ‹_›, _, _, rfl, ‹_›, h.symm⟩)))
        · simp at h
      · simp at h
    · simp at h; exact .inl h.symm
  | enci v => exact lift (run none (s.integerF v) none (by simp [State.integerF]) (fun _ => rfl) h)
  | encd w p => exact lift (run _ _ _ (by simp [State.decimalF]) (dec w) h)
  | enct t => exact lift (run none (s.textF t) none (by simp [State.textF]) (fun _ => rfl) h)
  | printi v d => exact lift (run none (s.integerF v) (some d) (by simp [State.integerF]) (fun _ => rfl) h)
  | printd w p d => exact lift (run _ _ _ (by simp [State.decimalF]) (dec w) h)
  | printt t d => exact lift (run none (s.textF t) (some d) (by simp [State.textF]) (fun _ => rfl) h)

/-- The finished frame of a command that encodes, and the duration of a PRINT. -/
def encodedFrame (i : Instr) (s : State) : List Byte × Option Word :=
  match i with
  | .enci v => (s.integerF v, none)
  | .encd w p => (s.decimalF w p, none)
  | .enct t => (s.textF t, none)
  | .printi v d => (s.integerF v, some d)
  | .printd w p d => (s.decimalF w p, some d)
  | .printt t d => (s.textF t, some d)
  | .config _ _ _ _ _ => ([], none)
  | .render _ _ => ([], none)

/-- The encode step of the six commands, as one equation. -/
theorem exec_encode {i : Instr} {s : State} (hp : s.seq.phase = .encode) (hl : s.latched = some i)
    (he : encodesInContract i = true) :
    exec i s = .next (s.finishEncode (encodedFrame i s).1 (encodedFrame i s).2) := by
  cases i <;> simp [encodesInContract] at he <;>
    simp [exec, execEnci, execEncd, execEnct, execPrinti, execPrintd, execPrintt, decimalStop, he, encodedFrame,
      runEncoder_encode, hp, hl]

theorem encodedFrame_length (i : Instr) (s : State) (he : encodesInContract i = true) :
    (encodedFrame i s).1.length = s.n := by
  cases i <;> simp [encodesInContract] at he <;>
    simp [encodedFrame, State.integerF, State.decimalF, State.textF]

/-- A frame depends on the tables, `POLARITY` and `DIGIT_COUNT` alone. -/
theorem encodedFrame_congr (i : Instr) {s t : State} (hp : t.params = s.params) (hpol : t.pol = s.pol)
    (hn : t.n = s.n) : encodedFrame i t = encodedFrame i s := by
  cases i <;> simp [encodedFrame, State.integerF, State.decimalF, State.textF, hp, hpol, hn]

/-- What the block reads back from the frame buffer is the frame just written. -/
theorem frame_finishEncode {g : List Byte} (d : Option Word) {s : State} (hl : g.length = s.n) (h8 : s.n ≤ 8) :
    (s.finishEncode g d).frame = g := by
  have hn : (s.finishEncode g d).n = s.n := by cases d <;> rfl
  apply List.ext_getElem
  · simp [State.frame, hn, hl, h8]
  · intro k h1 h2
    simp [State.frame, State.frameByte, writeFrame_get, h2]

/-! ### One step -/

theorem State.NoReset.next {s : State} (h : s.NoReset) : s.nextInput.reset = false := by
  unfold State.nextInput
  split
  · rename_i i rest hs
    exact h i (by rw [hs]; simp)
  · rfl

theorem State.NoReset.tail {s t : State} (h : s.NoReset) (ht : t.platform = s.platform.tail) : t.NoReset := by
  intro i hi
  rw [ht] at hi
  exact h i (List.mem_of_mem_tail hi)

/-- The state a command is taken in: the clock agent has moved and its packet has left the port. -/
def State.taken (rest : List Packet) (s : State) : State := { s.beginStep with hostProgram := rest }

/-- A step in which the block takes a packet. -/
theorem step_fetch {s : State} {p : Packet} {rest : List Packet} (hw : s.Waiting)
    (hh : s.hostProgram = p :: rest) :
    step s = match decode p with
      | .ok i => exec i (s.taken rest)
      | .error e => .refused (refusalOf e) := by
  obtain ⟨h1, h2, h3⟩ := hw
  have hf : s.beginStep.fetch = some (p, s.taken rest) := by
    simp only [State.fetch, State.beginStep_hostProgram, hh]; rfl
  simp only [step, wholeStep, h3, microStep, State.beginStep_seq, h1, rowIdle, State.cmdReady,
    State.beginStep_busy, h2, hf]
  rfl

/-- A block a packet is presented to is ready to take it. -/
theorem present_waiting (p : Packet) (s : State) : (s.present p).Waiting := by
  refine ⟨rfl, rfl, ?_⟩
  have h (l : List PlatformInput) : ∀ i ∈ (withoutReset l).head?, i.reset = false := by cases l <;> simp [withoutReset]
  unfold State.nextInput
  split
  · rename_i i rest hs
    exact h (s.readyFor p).platform i (by
      have : withoutReset (s.readyFor p).platform = i :: rest := hs
      simp [this])
  · rfl

/-- The step after a packet is presented is the command it decodes to. -/
theorem step_present {p : Packet} {i : Instr} (s : State) (hd : decode p = .ok i) :
    step (s.present p) = exec i ((s.present p).taken (s.readyFor p).hostProgram) := by
  rw [step_fetch (present_waiting p s) (rest := (s.readyFor p).hostProgram) rfl, hd]

/-- A step in `ENCODE`. -/
theorem step_encode {s : State} {i : Instr} (hr : s.nextInput.reset = false) (hp : s.seq.phase = .encode)
    (hl : s.latched = some i) : step s = exec i s.beginStep := by
  simp [step, wholeStep, hr, microStep, hp, rowEncode, hl]

/-- Everything a step can do when it goes on. -/
theorem step_cases {s t : State} (h : step s = .next t) :
    (s.nextInput.reset = true ∧ t = s.beginStep.assertReset) ∨
    (s.nextInput.reset = false ∧ s.seq.phase = .idle ∧ t = s.beginStep) ∨
    (s.nextInput.reset = false ∧ s.seq.phase = .idle ∧ s.busy = false ∧ ∃ p rest i,
      s.hostProgram = p :: rest ∧ decode p = .ok i ∧ exec i (s.taken rest) = .next t) ∨
    (s.nextInput.reset = false ∧ s.seq.phase = .encode ∧ ∃ i, s.latched = some i ∧
      exec i s.beginStep = .next t) ∨
    (s.nextInput.reset = false ∧ s.seq.phase ≠ .idle ∧ s.seq.phase ≠ .encode ∧ t = advance s.beginStep) := by
  unfold step wholeStep at h
  cases hr : s.nextInput.reset with
  | true => simp [hr] at h; exact .inl ⟨rfl, h.symm⟩
  | false =>
    simp only [hr, Bool.false_eq_true, if_false] at h
    right
    unfold microStep at h
    rw [State.beginStep_seq] at h
    split at h
    case h_1 hp =>
      unfold rowIdle State.cmdReady at h
      rw [State.beginStep_busy] at h
      cases hb : s.busy with
      | true => simp [hb] at h; exact .inl ⟨rfl, hp, h.symm⟩
      | false =>
        simp only [hb, Bool.not_false, if_true] at h
        unfold State.fetch at h
        rw [State.beginStep_hostProgram] at h
        split at h
        case h_1 => simp at h; exact .inl ⟨rfl, hp, h.symm⟩
        case h_2 p t' ht =>
          split at ht
          case h_2 => simp at ht
          case h_1 q rest hq =>
          simp only [Option.some.injEq, Prod.mk.injEq] at ht
          obtain ⟨rfl, rfl⟩ := ht
          split at h
          case h_1 i hi => exact .inr (.inl ⟨rfl, hp, rfl, _, rest, i, hq, hi, h⟩)
          case h_2 => simp at h
    case h_2 hp =>
      unfold rowEncode at h
      rw [State.beginStep_latched] at h
      split at h
      case h_1 i hi => exact .inr (.inr (.inl ⟨rfl, hp, i, hi, h⟩))
      case h_2 => simp at h
    all_goals
      rename_i hp
      simp at h
      exact .inr (.inr (.inr ⟨rfl, by simp [hp], by simp [hp], h.symm⟩))

/-- Outside `IDLE` and `ENCODE` the step is the sequencer's. -/
theorem step_advance {s : State} (hr : s.nextInput.reset = false) (hi : s.seq.phase ≠ .idle)
    (he : s.seq.phase ≠ .encode) : step s = .next (advance s.beginStep) := by
  unfold step wholeStep microStep
  simp only [hr, Bool.false_eq_true, if_false, State.beginStep_seq]
  cases hp : s.seq.phase <;> simp_all

/-- The step in a given phase outside `IDLE` and `ENCODE` is that phase's row. -/
theorem step_row {s : State} {ph : Phase} (hp : s.seq.phase = ph) (hr : s.nextInput.reset = false)
    (hi : ph ≠ .idle := by decide) (he : ph ≠ .encode := by decide) : step s = .next (rowOf ph s.beginStep) := by
  subst hp
  exact step_advance hr hi he

end Sys2Proof.Machine
end

