-- ==== Sys2Proof/Laws/Sequencer.lean ====
section
/-!
SUPPORT. The rows of the transition table (spec/41_scanner.md R96): the fields no row touches, and, for each field
some rows touch, what every row leaves in it.
-/

namespace Sys2Proof.Machine

/-! ### One pin-level step of a byte -/

/-- While `BITCNT` is below 8 the next bit is pulsed. -/
theorem shiftStep_bit {s : State} (order : BitOrder) (v : Byte) (after : Phase) (h : s.seq.bitcnt.val < 8) :
    s.shiftStep order v after = { s.pulse (wireBit order v s.seq.bitcnt.val) with
      seq := ⟨s.seq.phase, s.seq.pos, ⟨s.seq.bitcnt.val + 1, by omega⟩⟩ } := by
  simp [State.shiftStep, h, State.pulse]

/-- At 8 the event is complete. -/
theorem shiftStep_end {s : State} (order : BitOrder) (v : Byte) (after : Phase) (h : ¬s.seq.bitcnt.val < 8) :
    s.shiftStep order v after =
      (s.emit (.shiftOut (s.pin .data) (s.pin .clock) order v)).goto after := by
  simp [State.shiftStep, h]

/-- A pulse from a Low clock shifts its bit into the chain. -/
theorem pulse_eq {s : State} (b : Bool) (h : s.clock = .low) :
    s.pulse b = { s with data := levelOfBit b, clock := .low, sr := shiftIn b s.sr } := by
  cases b <;> simp [State.pulse, State.drive, levelOfBit, h]

/-- When a sleep is over (R21). -/
theorem sleepOver_iff {s : State} {start : ℕ} (h : s.sleepStart = some start) :
    s.sleepOver = true ↔ start + s.params.povDelayMs ≤ s.timeMs := by
  simp [State.sleepOver, h]

/-- Everything the hold can do: end, or leave the block as it is. -/
theorem rowHold_eq (s : State) : rowHold s = { s with
    sleepStart := if s.sleepOver then none else s.sleepStart
    seq := if s.sleepOver then
      ⟨afterHold s.params.exitCheck (nextPos s.seq.pos s.n), nextPos s.seq.pos s.n, 0⟩ else s.seq
    trace := if s.sleepOver then .sleep s.params.povDelayMs :: s.trace else s.trace } := by
  unfold rowHold
  split <;> rfl

/-! ### The fields no row touches -/

theorem shiftStep_params (order : BitOrder) (v : Byte) (after : Phase) (s : State) :
    (s.shiftStep order v after).params = s.params := by
  unfold State.shiftStep; split <;> simp [State.pulse]

theorem shiftStep_latchPin (order : BitOrder) (v : Byte) (after : Phase) (s : State) :
    (s.shiftStep order v after).latchPin = s.latchPin := by
  unfold State.shiftStep; split <;> simp [State.pulse]

theorem shiftStep_clockPin (order : BitOrder) (v : Byte) (after : Phase) (s : State) :
    (s.shiftStep order v after).clockPin = s.clockPin := by
  unfold State.shiftStep; split <;> simp [State.pulse]

theorem shiftStep_dataPin (order : BitOrder) (v : Byte) (after : Phase) (s : State) :
    (s.shiftStep order v after).dataPin = s.dataPin := by
  unfold State.shiftStep; split <;> simp [State.pulse]

theorem shiftStep_polarity (order : BitOrder) (v : Byte) (after : Phase) (s : State) :
    (s.shiftStep order v after).polarity = s.polarity := by
  unfold State.shiftStep; split <;> simp [State.pulse]

theorem shiftStep_digitCount (order : BitOrder) (v : Byte) (after : Phase) (s : State) :
    (s.shiftStep order v after).digitCount = s.digitCount := by
  unfold State.shiftStep; split <;> simp [State.pulse]

theorem shiftStep_configured (order : BitOrder) (v : Byte) (after : Phase) (s : State) :
    (s.shiftStep order v after).configured = s.configured := by
  unfold State.shiftStep; split <;> simp [State.pulse]

theorem shiftStep_latched (order : BitOrder) (v : Byte) (after : Phase) (s : State) :
    (s.shiftStep order v after).latched = s.latched := by
  unfold State.shiftStep; split <;> simp [State.pulse]

theorem shiftStep_hostProgram (order : BitOrder) (v : Byte) (after : Phase) (s : State) :
    (s.shiftStep order v after).hostProgram = s.hostProgram := by
  unfold State.shiftStep; split <;> simp [State.pulse]

theorem shiftStep_platform (order : BitOrder) (v : Byte) (after : Phase) (s : State) :
    (s.shiftStep order v after).platform = s.platform := by
  unfold State.shiftStep; split <;> simp [State.pulse]

theorem shiftStep_ticks (order : BitOrder) (v : Byte) (after : Phase) (s : State) :
    (s.shiftStep order v after).ticks = s.ticks := by
  unfold State.shiftStep; split <;> simp [State.pulse]

@[simp] theorem rowOf_params (ph : Phase) (s : State) : (rowOf ph s).params = s.params := by
  cases ph <;> simp [rowOf, rowStamp, rowCheck, rowLatchLo, rowShiftSel, rowShiftSeg, rowLatchHi, rowHold_eq, rowBlankLatchLo, rowBlankShift1,
    rowBlankShift2, rowBlankLatchHi, rowRespond, rowDone, State.setLevel, shiftStep_params]

@[simp] theorem rowOf_latchPin (ph : Phase) (s : State) : (rowOf ph s).latchPin = s.latchPin := by
  cases ph <;> simp [rowOf, rowStamp, rowCheck, rowLatchLo, rowShiftSel, rowShiftSeg, rowLatchHi, rowHold_eq, rowBlankLatchLo, rowBlankShift1,
    rowBlankShift2, rowBlankLatchHi, rowRespond, rowDone, State.setLevel, shiftStep_latchPin]

@[simp] theorem rowOf_clockPin (ph : Phase) (s : State) : (rowOf ph s).clockPin = s.clockPin := by
  cases ph <;> simp [rowOf, rowStamp, rowCheck, rowLatchLo, rowShiftSel, rowShiftSeg, rowLatchHi, rowHold_eq, rowBlankLatchLo, rowBlankShift1,
    rowBlankShift2, rowBlankLatchHi, rowRespond, rowDone, State.setLevel, shiftStep_clockPin]

@[simp] theorem rowOf_dataPin (ph : Phase) (s : State) : (rowOf ph s).dataPin = s.dataPin := by
  cases ph <;> simp [rowOf, rowStamp, rowCheck, rowLatchLo, rowShiftSel, rowShiftSeg, rowLatchHi, rowHold_eq, rowBlankLatchLo, rowBlankShift1,
    rowBlankShift2, rowBlankLatchHi, rowRespond, rowDone, State.setLevel, shiftStep_dataPin]

@[simp] theorem rowOf_polarity (ph : Phase) (s : State) : (rowOf ph s).polarity = s.polarity := by
  cases ph <;> simp [rowOf, rowStamp, rowCheck, rowLatchLo, rowShiftSel, rowShiftSeg, rowLatchHi, rowHold_eq, rowBlankLatchLo, rowBlankShift1,
    rowBlankShift2, rowBlankLatchHi, rowRespond, rowDone, State.setLevel, shiftStep_polarity]

@[simp] theorem rowOf_digitCount (ph : Phase) (s : State) : (rowOf ph s).digitCount = s.digitCount := by
  cases ph <;> simp [rowOf, rowStamp, rowCheck, rowLatchLo, rowShiftSel, rowShiftSeg, rowLatchHi, rowHold_eq, rowBlankLatchLo, rowBlankShift1,
    rowBlankShift2, rowBlankLatchHi, rowRespond, rowDone, State.setLevel, shiftStep_digitCount]

@[simp] theorem rowOf_configured (ph : Phase) (s : State) : (rowOf ph s).configured = s.configured := by
  cases ph <;> simp [rowOf, rowStamp, rowCheck, rowLatchLo, rowShiftSel, rowShiftSeg, rowLatchHi, rowHold_eq, rowBlankLatchLo, rowBlankShift1,
    rowBlankShift2, rowBlankLatchHi, rowRespond, rowDone, State.setLevel, shiftStep_configured]

@[simp] theorem rowOf_latched (ph : Phase) (s : State) : (rowOf ph s).latched = s.latched := by
  cases ph <;> simp [rowOf, rowStamp, rowCheck, rowLatchLo, rowShiftSel, rowShiftSeg, rowLatchHi, rowHold_eq, rowBlankLatchLo, rowBlankShift1,
    rowBlankShift2, rowBlankLatchHi, rowRespond, rowDone, State.setLevel, shiftStep_latched]

@[simp] theorem rowOf_hostProgram (ph : Phase) (s : State) : (rowOf ph s).hostProgram = s.hostProgram := by
  cases ph <;> simp [rowOf, rowStamp, rowCheck, rowLatchLo, rowShiftSel, rowShiftSeg, rowLatchHi, rowHold_eq, rowBlankLatchLo, rowBlankShift1,
    rowBlankShift2, rowBlankLatchHi, rowRespond, rowDone, State.setLevel, shiftStep_hostProgram]

@[simp] theorem rowOf_platform (ph : Phase) (s : State) : (rowOf ph s).platform = s.platform := by
  cases ph <;> simp [rowOf, rowStamp, rowCheck, rowLatchLo, rowShiftSel, rowShiftSeg, rowLatchHi, rowHold_eq, rowBlankLatchLo, rowBlankShift1,
    rowBlankShift2, rowBlankLatchHi, rowRespond, rowDone, State.setLevel, shiftStep_platform]

@[simp] theorem rowOf_ticks (ph : Phase) (s : State) : (rowOf ph s).ticks = s.ticks := by
  cases ph <;> simp [rowOf, rowStamp, rowCheck, rowLatchLo, rowShiftSel, rowShiftSeg, rowLatchHi, rowHold_eq, rowBlankLatchLo, rowBlankShift1,
    rowBlankShift2, rowBlankLatchHi, rowRespond, rowDone, State.setLevel, shiftStep_ticks]

/-! ### The fields some rows touch -/

/-- No row takes time: the clock agent alone moves `TIME_MS` (R21). -/
@[simp] theorem rowOf_timeMs (ph : Phase) (s : State) : (rowOf ph s).timeMs = s.timeMs := by
  have h (o : BitOrder) (v : Byte) (a : Phase) : (s.shiftStep o v a).timeMs = s.timeMs := by
    unfold State.shiftStep; split <;> simp [State.pulse]
  cases ph <;> simp [rowOf, rowStamp, rowCheck, rowLatchLo, rowShiftSel, rowShiftSeg, rowLatchHi, rowHold_eq, rowBlankLatchLo, rowBlankShift1,
    rowBlankShift2, rowBlankLatchHi, rowRespond, rowDone, State.setLevel, h]

/-- A sleep begins with the row that raises `LATCH` for a load and ends with the hold (R89, R90). -/
theorem rowOf_sleepStart (ph : Phase) (s : State) :
    (rowOf ph s).sleepStart = if ph = .rLatchHi then some s.timeMs
      else if ph = .rHold ∧ s.sleepOver = true then none else s.sleepStart := by
  have h (o : BitOrder) (v : Byte) (a : Phase) : (s.shiftStep o v a).sleepStart = s.sleepStart := by
    unfold State.shiftStep; split <;> simp [State.pulse]
  cases ph <;> simp [rowOf, rowStamp, rowCheck, rowLatchLo, rowShiftSel, rowShiftSeg, rowLatchHi, rowHold_eq, rowBlankLatchLo, rowBlankShift1,
    rowBlankShift2, rowBlankLatchHi, rowRespond, rowDone, State.setLevel, h]

/-- Only the rows that raise the latch line change the chain's outputs (R101). -/
theorem rowOf_out (ph : Phase) (s : State) :
    (rowOf ph s).out = if (ph = .rLatchHi ∨ ph = .bLatchHi) ∧ s.latch = .low then s.sr else s.out := by
  have h (o : BitOrder) (v : Byte) (a : Phase) : (s.shiftStep o v a).out = s.out := by
    unfold State.shiftStep; split <;> simp [State.pulse]
  cases ph <;> simp [rowOf, rowStamp, rowCheck, rowLatchLo, rowShiftSel, rowShiftSeg, rowLatchHi, rowHold_eq, rowBlankLatchLo, rowBlankShift1,
    rowBlankShift2, rowBlankLatchHi, rowRespond, rowDone, State.setLevel, h]

/-- `LATCH` after a row. -/
theorem rowOf_latch (ph : Phase) (s : State) :
    (rowOf ph s).latch = if ph = .rLatchHi ∨ ph = .bLatchHi then .high
      else if ph = .rLatchLo ∨ ph = .bLatchLo then .low else s.latch := by
  have h (o : BitOrder) (v : Byte) (a : Phase) : (s.shiftStep o v a).latch = s.latch := by
    unfold State.shiftStep; split <;> simp [State.pulse]
  cases ph <;> simp [rowOf, rowStamp, rowCheck, rowLatchLo, rowShiftSel, rowShiftSeg, rowLatchHi, rowHold_eq, rowBlankLatchLo, rowBlankShift1,
    rowBlankShift2, rowBlankLatchHi, rowRespond, rowDone, State.setLevel, h]

/-- Only completion touches the frame buffer (R16). -/
theorem rowOf_f (ph : Phase) (s : State) :
    (rowOf ph s).f = if ph = .done then Vector.replicate 8 none else s.f := by
  have h (o : BitOrder) (v : Byte) (a : Phase) : (s.shiftStep o v a).f = s.f := by
    unfold State.shiftStep; split <;> simp [State.pulse]
  cases ph <;> simp [rowOf, rowStamp, rowCheck, rowLatchLo, rowShiftSel, rowShiftSeg, rowLatchHi, rowHold_eq, rowBlankLatchLo,
    rowBlankShift1, rowBlankShift2, rowBlankLatchHi, rowRespond, rowDone, State.setLevel, h]

/-- Only the stamp and completion touch `T0` (R17). -/
theorem rowOf_t0 (ph : Phase) (s : State) :
    (rowOf ph s).t0 = if ph = .rStamp then some s.timeMs else if ph = .done then none else s.t0 := by
  have h (o : BitOrder) (v : Byte) (a : Phase) : (s.shiftStep o v a).t0 = s.t0 := by
    unfold State.shiftStep; split <;> simp [State.pulse]
  cases ph <;> simp [rowOf, rowStamp, rowCheck, rowLatchLo, rowShiftSel, rowShiftSeg, rowLatchHi, rowHold_eq, rowBlankLatchLo,
    rowBlankShift1, rowBlankShift2, rowBlankLatchHi, rowRespond, rowDone, State.setLevel, h]

/-- Only completion touches `DUR` (R17). -/
theorem rowOf_dur (ph : Phase) (s : State) :
    (rowOf ph s).dur = if ph = .done then none else s.dur := by
  have h (o : BitOrder) (v : Byte) (a : Phase) : (s.shiftStep o v a).dur = s.dur := by
    unfold State.shiftStep; split <;> simp [State.pulse]
  cases ph <;> simp [rowOf, rowStamp, rowCheck, rowLatchLo, rowShiftSel, rowShiftSeg, rowLatchHi, rowHold_eq, rowBlankLatchLo,
    rowBlankShift1, rowBlankShift2, rowBlankLatchHi, rowRespond, rowDone, State.setLevel, h]

/-- Only completion touches `BUSY` (R14). -/
theorem rowOf_busy (ph : Phase) (s : State) :
    (rowOf ph s).busy = if ph = .done then false else s.busy := by
  have h (o : BitOrder) (v : Byte) (a : Phase) : (s.shiftStep o v a).busy = s.busy := by
    unfold State.shiftStep; split <;> simp [State.pulse]
  cases ph <;> simp [rowOf, rowStamp, rowCheck, rowLatchLo, rowShiftSel, rowShiftSeg, rowLatchHi, rowHold_eq, rowBlankLatchLo,
    rowBlankShift1, rowBlankShift2, rowBlankLatchHi, rowRespond, rowDone, State.setLevel, h]

/-- Only completion pulses `RSP_DONE` (R57). -/
theorem rowOf_rspDone (ph : Phase) (s : State) :
    (rowOf ph s).rspDone = if ph = .done then true else s.rspDone := by
  have h (o : BitOrder) (v : Byte) (a : Phase) : (s.shiftStep o v a).rspDone = s.rspDone := by
    unfold State.shiftStep; split <;> simp [State.pulse]
  cases ph <;> simp [rowOf, rowStamp, rowCheck, rowLatchLo, rowShiftSel, rowShiftSeg, rowLatchHi, rowHold_eq, rowBlankLatchLo,
    rowBlankShift1, rowBlankShift2, rowBlankLatchHi, rowRespond, rowDone, State.setLevel, h]

/-- The event a row adds to the trace: at most one, and a byte's only when it is out (log entry 14). -/
theorem rowOf_trace (ph : Phase) (s : State) :
    (rowOf ph s).trace = match ph with
      | .idle | .encode => s.trace
      | .rStamp => .stamp s.timeMs :: s.trace
      | .rCheck => .elapsed s.elapsedMs :: s.trace
      | .rLatchLo | .bLatchLo => .setLevel .latch (s.pin .latch) .low :: s.trace
      | .rLatchHi | .bLatchHi => .setLevel .latch (s.pin .latch) .high :: s.trace
      | .rShiftSel => if s.seq.bitcnt.val < 8 then s.trace else
          .shiftOut (s.pin .data) (s.pin .clock) .lsbFirst (selByte s.params s.pol s.seq.pos) :: s.trace
      | .rShiftSeg => if s.seq.bitcnt.val < 8 then s.trace else
          .shiftOut (s.pin .data) (s.pin .clock) .msbFirst (s.frameByte s.seq.pos) :: s.trace
      | .rHold => if s.sleepOver then .sleep s.params.povDelayMs :: s.trace else s.trace
      | .bShift1 => if s.seq.bitcnt.val < 8 then s.trace else
          .shiftOut (s.pin .data) (s.pin .clock) .lsbFirst 0x00#8 :: s.trace
      | .bShift2 => if s.seq.bitcnt.val < 8 then s.trace else
          .shiftOut (s.pin .data) (s.pin .clock) .msbFirst 0x00#8 :: s.trace
      | .respond => .rspFrame s.frame :: s.trace
      | .done => .rspDone :: s.trace := by
  have h (o : BitOrder) (v : Byte) (a : Phase) : (s.shiftStep o v a).trace =
      if s.seq.bitcnt.val < 8 then s.trace else .shiftOut (s.pin .data) (s.pin .clock) o v :: s.trace := by
    unfold State.shiftStep; split <;> simp [State.pulse, *]
  cases ph <;> simp [rowOf, rowStamp, rowCheck, rowLatchLo, rowShiftSel, rowShiftSeg, rowLatchHi, rowHold_eq, rowBlankLatchLo,
    rowBlankShift1, rowBlankShift2, rowBlankLatchHi, rowRespond, rowDone, State.setLevel, h]

/-- Every row leaves `CLOCK` Low where it was Low (R137). -/
theorem rowOf_clock (ph : Phase) (s : State) (hc : s.clock = .low) : (rowOf ph s).clock = .low := by
  have h (o : BitOrder) (v : Byte) (a : Phase) : (s.shiftStep o v a).clock = .low := by
    unfold State.shiftStep; split <;> simp [pulse_eq _ hc, hc]
  cases ph <;> simp [rowOf, rowStamp, rowCheck, rowLatchLo, rowShiftSel, rowShiftSeg, rowLatchHi, rowHold_eq, rowBlankLatchLo,
    rowBlankShift1, rowBlankShift2, rowBlankLatchHi, rowRespond, rowDone, State.setLevel, h, hc]

/-- No row releases `DATA`. -/
theorem rowOf_data (ph : Phase) (s : State) (hd : s.data ≠ .undriven) : (rowOf ph s).data ≠ .undriven := by
  have h (o : BitOrder) (v : Byte) (a : Phase) : (s.shiftStep o v a).data ≠ .undriven := by
    unfold State.shiftStep
    split
    · cases wireBit o v s.seq.bitcnt.val <;> simp [State.pulse, levelOfBit]
    · simpa using hd
  cases ph <;> simp [rowOf, rowStamp, rowCheck, rowLatchLo, rowShiftSel, rowShiftSeg, rowLatchHi, rowHold_eq, rowBlankLatchLo,
    rowBlankShift1, rowBlankShift2, rowBlankLatchHi, rowRespond, rowDone, State.setLevel, h, hd]

/-- Only a pulse moves the chain (R100). -/
theorem rowOf_sr (ph : Phase) (s : State) (h : ph.shifting = false ∨ 8 ≤ s.seq.bitcnt.val) :
    (rowOf ph s).sr = s.sr := by
  have hs (o : BitOrder) (v : Byte) (a : Phase) (h8 : 8 ≤ s.seq.bitcnt.val) : (s.shiftStep o v a).sr = s.sr := by
    rw [shiftStep_end o v a (by omega)]; simp
  cases ph <;> simp [Phase.shifting] at h <;> simp [rowOf, rowStamp, rowCheck, rowLatchLo, rowShiftSel, rowShiftSeg, rowLatchHi, rowHold_eq, rowBlankLatchLo,
    rowBlankShift1, rowBlankShift2, rowBlankLatchHi, rowRespond, rowDone, State.setLevel, hs, h]

/-- In a shifting phase the row is one pin-level step of the byte being shifted. -/
theorem rowOf_shifting {s : State} (h : s.seq.phase.shifting = true) :
    ∃ after, rowOf s.seq.phase s = s.shiftStep s.shiftingByte.1 s.shiftingByte.2 after := by
  cases hp : s.seq.phase <;> simp [Phase.shifting, hp] at h <;>
    simp only [rowOf, State.shiftingByte, hp]
  · exact ⟨_, rfl⟩
  · exact ⟨_, rfl⟩
  · exact ⟨_, rfl⟩
  · exact ⟨_, rfl⟩

/-- `POS` after a hold, for an N in range. -/
theorem nextPos_val (pos : Fin 8) {n : ℕ} (h1 : 1 ≤ n) (h8 : n ≤ 8) : (nextPos pos n).val = (pos.val + 1) % n := by
  have := Nat.mod_lt (pos.val + 1) h1
  simp only [nextPos, Fin.val_ofNat]
  exact Nat.mod_eq_of_lt (by omega)

/-- `SEQ` after one pin-level step of a byte. -/
theorem shiftStep_seq (o : BitOrder) (v : Byte) (a : Phase) (s : State) : (s.shiftStep o v a).seq =
    if h : s.seq.bitcnt.val < 8 then ⟨s.seq.phase, s.seq.pos, ⟨s.seq.bitcnt.val + 1, by omega⟩⟩
    else ⟨a, s.seq.pos, 0⟩ := by
  unfold State.shiftStep; split <;> simp [State.pulse]

/-- `SEQ` after a row, as the table gives it (for an N in range). -/
theorem rowOf_seq (s : State) (h1 : s.seq.phase = .rHold → 1 ≤ s.n ∧ s.n ≤ 8) :
    (rowOf s.seq.phase s).seq =
      specNextSeq (decide (s.elapsedMs < s.durMs)) s.sleepOver s.n s.params.exitCheck s.seq := by
  cases hp : s.seq.phase
  case rHold =>
    have hv := nextPos_val s.seq.pos (h1 hp).1 (h1 hp).2
    have hz : nextPos s.seq.pos s.n = 0 ↔ (s.seq.pos.val + 1) % s.n = 0 := by
      rw [Fin.ext_iff, hv]; rfl
    simp only [specNextSeq, hp, rowOf, rowHold_eq, afterHold, hz]
    cases s.sleepOver
    · rfl
    simp only [if_true, Bool.not_true, Bool.false_eq_true, if_false]
    split
    · rename_i h0
      have := hz.2 h0
      simp [this]
    · cases s.params.exitCheck <;> simp [nextPos]
  all_goals simp [specNextSeq, hp, rowOf, rowStamp, rowCheck, rowLatchLo, rowShiftSel, rowShiftSeg, rowLatchHi,
    rowBlankLatchLo, rowBlankShift1, rowBlankShift2, rowBlankLatchHi, rowRespond, rowDone, State.setLevel,
    shiftStep_seq]

/-! ### The transition table by itself -/

/-- The table read along its arrows: where a phase can come from, and what holds of `BITCNT` there. -/
theorem specNextSeq_facts (go ended : Bool) (n : ℕ) (check : ExitCheck) (q : Seq) (h1 : q.phase ≠ .idle)
    (h2 : q.phase ≠ .encode) (h3 : q.phase.shifting = false → q.bitcnt = 0) :
    ((specNextSeq go ended n check q).phase = .idle ↔ q.phase = .done) ∧
    (specNextSeq go ended n check q).phase ≠ .encode ∧
    ((specNextSeq go ended n check q).phase.shifting = false → (specNextSeq go ended n check q).bitcnt = 0) ∧
    ((specNextSeq go ended n check q).phase.loading = true →
      q.phase = .rLatchLo ∨ q.phase = .bLatchLo ∨ q.phase.shifting = true) ∧
    ((specNextSeq go ended n check q).phase = .rHold ↔ q.phase = .rLatchHi ∨ (q.phase = .rHold ∧ ended = false)) ∧
    ((specNextSeq go ended n check q).phase.scanning = true → q.phase = .rStamp ∨ q.phase.scanning = true) ∧
    (specNextSeq go ended n check q).phase ≠ .rStamp ∧ (specNextSeq go ended n check q).phase ≠ .respond ∧
    ((specNextSeq go ended n check q).phase.blanking = true →
      (q.phase = .rCheck ∧ go = false) ∨ q.phase.blanking = true) := by
  obtain ⟨ph, pos, bc⟩ := q
  cases ph
  case idle => exact absurd rfl h1
  case encode => exact absurd rfl h2
  case rCheck => cases go <;> simp [specNextSeq, Phase.shifting, Phase.loading, Phase.scanning, Phase.blanking]
  case rHold =>
    simp only [specNextSeq]
    cases ended
    · simp [Phase.shifting, Phase.loading, Phase.scanning, Phase.blanking] at h3 ⊢
      exact h3
    · simp only [Bool.not_true, Bool.false_eq_true, if_false]
      split
      · simp [Phase.shifting, Phase.loading, Phase.scanning, Phase.blanking]
      · cases check <;> simp [Phase.shifting, Phase.loading, Phase.scanning, Phase.blanking]
  case rShiftSel | rShiftSeg | bShift1 | bShift2 =>
    simp only [specNextSeq]
    split <;> simp [Phase.shifting, Phase.loading, Phase.scanning, Phase.blanking]
  all_goals simp [specNextSeq, Phase.shifting, Phase.loading, Phase.scanning, Phase.blanking]

/-- `POS` stays below N. -/
theorem specNextSeq_pos (go ended : Bool) {n : ℕ} (check : ExitCheck) (q : Seq) (h1 : 1 ≤ n) (h8 : n ≤ 8)
    (hq : q.pos.val < n) : (specNextSeq go ended n check q).pos.val < n := by
  obtain ⟨ph, pos, bc⟩ := q
  have := Nat.mod_lt (pos.val + 1) h1
  cases ph
  case rHold =>
    simp only [specNextSeq]
    split
    · exact hq
    · split
      · exact h1
      · simp only [Fin.val_ofNat]; rw [Nat.mod_eq_of_lt (by omega)]; omega
  case rShiftSel | rShiftSeg | bShift1 | bShift2 =>
    simp only [specNextSeq]
    split <;> exact hq
  case rStamp => exact h1
  all_goals exact hq

end Sys2Proof.Machine
end

