-- ==== Sys2Proof/Laws/Clock.lean ====
section
/-!
SUPPORT. The clock agent (spec/10_state.md R21): that every step takes its next move, and the count of its moves along a run,
with the fairness premise of spec/41_scanner.md R97 (d).
-/

namespace Sys2Proof.Machine

/-- No command's micro-step takes a move from the clock agent. -/
theorem exec_clock {i : Instr} {s t : State} (h : exec i s = .next t) :
    t.platform = s.platform ∧ t.ticks = s.ticks := by
  rcases exec_cases h with rfl | ⟨-, -, l, c, d, p, n, -, -, -, rfl⟩ | ⟨-, -, -, rfl⟩ | ⟨-, -, f, d, -, -, rfl⟩ |
    ⟨-, -, -, f, d, -, rfl⟩
  · exact ⟨rfl, rfl⟩
  · simp [configure_eq]
  · simp
  · simp
  · simp

/-- Every step takes the clock agent's next move. -/
theorem step_clock {s t : State} (h : step s = .next t) :
    t.platform = s.platform.tail ∧ t.ticks = s.ticks + 1 := by
  rcases step_cases h with ⟨-, rfl⟩ | ⟨-, -, rfl⟩ | ⟨-, -, -, p, r, i, -, -, h⟩ | ⟨-, -, i, -, h⟩ | ⟨-, -, -, rfl⟩
  · exact ⟨rfl, rfl⟩
  · exact ⟨rfl, rfl⟩
  · exact exec_clock h
  · exact exec_clock h
  · simp [advance]

/-- What the clock agent does from a step on is what it did from the step before, less its first move. -/
theorem clockMove_succ {s t : State} (h : step s = .next t) (j : ℕ) : s.clockMove (j + 1) = t.clockMove j := by
  obtain ⟨hp, ht⟩ := step_clock h
  simp only [State.clockMove, hp, ht, List.getElem?_tail, Nat.add_assoc, Nat.add_comm 1 j]

/-- The next step takes the first move. -/
theorem clockMove_zero (s : State) : s.clockMove 0 = s.nextInput.advanceMs := by
  unfold State.clockMove State.nextInput
  cases s.platform <;> simp

/-- The moves within `k + 1` steps: the first step's, and those of the `k` after it. -/
theorem clockMovesWithin_succ {s t : State} (h : step s = .next t) (k : ℕ) :
    s.clockMovesWithin (k + 1) = (if 0 < s.nextInput.advanceMs then 1 else 0) + t.clockMovesWithin k := by
  simp only [State.clockMovesWithin, List.range_succ_eq_map, List.countP_cons, List.countP_map, Function.comp_def,
    Nat.succ_eq_add_one, clockMove_succ h, clockMove_zero, decide_eq_true_eq]
  omega

/-- A fair clock agent moves as often as a claim asks for, within some number of steps. -/
theorem State.FairClock.moves {s : State} (h : s.FairClock) (m : ℕ) : ∃ k, m ≤ s.clockMovesWithin k := by
  induction m with
  | zero => exact ⟨0, Nat.zero_le _⟩
  | succ m ih =>
    obtain ⟨k, hk⟩ := ih
    obtain ⟨i, hi, h0⟩ := h k
    refine ⟨i + 1, ?_⟩
    have hs : (List.range k).Sublist (List.range i) := List.range_sublist.2 hi
    have := hs.countP_le (p := fun j => decide (0 < s.clockMove j))
    simp only [State.clockMovesWithin, List.range_succ, List.countP_append, List.countP_singleton, h0,
      decide_true, if_true] at *
    omega

end Sys2Proof.Machine
end

