-- ==== Sys2Proof/Laws/Encoding.lean ====
section
/-!
SUPPORT. Lemmas about the pieces of the packet codec: the opcode table both ways, the four-byte fields both ways, the
`LEN` byte and the `POL` byte.
-/

namespace Sys2Proof

@[simp] theorem opcodeOf_opcodeByte (o : Opcode) : opcodeOf (opcodeByte o) = some o := by cases o <;> rfl

theorem opcodeByte_of_opcodeOf {b : Byte} {o : Opcode} (h : opcodeOf b = some o) : opcodeByte o = b := by
  revert o; revert b; decide

@[simp] theorem polarityOf_polarityByte (p : Polarity) : polarityOf (polarityByte p) = some p := by cases p <;> rfl

theorem polarityByte_of_polarityOf {b : Byte} {p : Polarity} (h : polarityOf b = some p) : polarityByte p = b := by
  revert p; revert b; decide

theorem word32_bytes (w : Word) :
    word32 (w.extractLsb' 0 8) (w.extractLsb' 8 8) (w.extractLsb' 16 8) (w.extractLsb' 24 8) = w := by
  unfold word32; ext i hi; simp; grind

@[simp] theorem lastWord_bytes32 (w : Word) : lastWord? (bytes32 w) = some w := by
  simp [bytes32, lastWord?, word32_bytes]

theorem bytes32_word32 (a b c d : Byte) : bytes32 (word32 a b c d) = [a, b, c, d] := by
  simp only [bytes32, List.cons.injEq, and_true]
  refine ⟨?_, ?_, ?_, ?_⟩ <;> (ext i hi; simp [word32]; grind)

@[simp] theorem bytes32_length (w : Word) : (bytes32 w).length = 4 := rfl

theorem eq_bytes32_of_lastWord {l : List Byte} {w : Word} (h : lastWord? l = some w) : l = bytes32 w := by
  match l, h with
  | [a, b, c, d], h => simp [lastWord?] at h; subst h; exact (bytes32_word32 a b c d).symm

theorem lenByte_toNat {l : List Byte} (h : lengthFitsLen l = true) : (lenByte l).toNat = l.length := by
  simp [lengthFitsLen] at h; simp [lenByte]; omega
theorem lenByte_eq {l : List Byte} {b : Byte} (h : l.length = b.toNat) : lenByte l = b := by
  simp [lenByte, h]

theorem lengthFitsLen_of_byte {l : List Byte} {b : Byte} (h : l.length = b.toNat) : lengthFitsLen l = true := by
  simp [lengthFitsLen, h]; have := b.isLt; omega

/-- A command inside the contract has a packet. -/
theorem encodable_of_wellFormed {i : Instr} (h : i.wellFormed = true) : i.encodable = true := by
  cases i <;> first | rfl | exact h | skip
  case render frame _ =>
    have h8 : 1 ≤ frame.length ∧ frame.length ≤ 8 := by
      simpa [Instr.wellFormed, frameLengthPossible, Config.maxDigits] using h
    simp only [Instr.encodable, lengthFitsLen, decide_eq_true_eq]
    omega

end Sys2Proof
end

