-- ==== Sys2Proof/Laws/Invariant.lean ====
section
/-!
SUPPORT. What the invariant of Safety.lean gives at once, and that the clock agent's move keeps it.
-/

namespace Sys2Proof.Machine

/-- A block at work is configured. -/
theorem State.Inv.configured_of_busy {s : State} (hi : s.Inv) (h : s.seq.phase ≠ .idle) : s.configured = true := by
  by_contra hc
  exact h (by rw [hi.unconfigured_idle (by simpa using hc)])

/-- Once configured, N is known and lies in 1 to 8. -/
theorem State.Inv.digitCount {s : State} (hi : s.Inv) (hc : s.configured = true) :
    ∃ n, s.digitCount = some n ∧ 1 ≤ n.toNat ∧ n.toNat ≤ 8 := by
  have := hi.registers_valid hc
  unfold State.registersValid at this
  split at this <;> simp_all [Config.maxDigits]

theorem State.n_of_digitCount {s : State} {n : BitVec 4} (h : s.digitCount = some n) : s.n = n.toNat := by simp [State.n, h]

theorem State.Inv.n_range {s : State} (hi : s.Inv) (hc : s.configured = true) : 1 ≤ s.n ∧ s.n ≤ 8 := by
  obtain ⟨n, h, h1, h2⟩ := hi.digitCount hc
  rw [State.n_of_digitCount h]; exact ⟨h1, h2⟩

/-- The clock agent's move keeps the invariant. -/
theorem State.Inv.beginStep {s t : State} (hi : s.Inv) (ht : t = s.beginStep ∨ ∃ r, t = s.taken r) : t.Inv := by
  have hn : s.configured = true → t.n = s.n := by
    intro hc
    obtain ⟨n, h, -, -⟩ := hi.digitCount hc
    rw [State.n_of_digitCount h, State.n_of_digitCount (s := t) (n := n)]
    rcases ht with rfl | ⟨r, rfl⟩ <;> exact h
  have hs : s.seq.phase.scanning = true → t.t0.isSome = true ∧ t.stampValue ≤ t.timeMs := by
    intro h
    obtain ⟨h1, h2⟩ := hi.stamp_live h
    obtain ⟨x, hx⟩ := Option.isSome_iff_exists.1 h1
    have e1 : t.t0 = some x := by rcases ht with rfl | ⟨r, rfl⟩ <;> exact hx
    have e2 : s.timeMs ≤ t.timeMs := by rcases ht with rfl | ⟨r, rfl⟩ <;> simp [State.taken]
    simp only [State.stampValue, hx, e1, Option.getD_some, Option.isSome_some, true_and] at *
    omega
  have htime : s.timeMs ≤ t.timeMs := by rcases ht with rfl | ⟨r, rfl⟩ <;> simp [State.taken]
  have hb : s.seq.phase.blanking = true → t.durMs ≤ t.timeMs - t.stampValue := by
    intro h
    have hsc : s.seq.phase.scanning = true := by
      revert h; cases s.seq.phase <;> simp [Phase.blanking, Phase.scanning]
    obtain ⟨x, hx⟩ := Option.isSome_iff_exists.1 (hi.stamp_live hsc).1
    obtain ⟨d, hd⟩ := Option.isSome_iff_exists.1 (hi.dur_live (.inr hsc))
    have := hi.blanking_late h
    have e1 : t.t0 = some x := by rcases ht with rfl | ⟨r, rfl⟩ <;> exact hx
    have e2 : t.dur = some d := by rcases ht with rfl | ⟨r, rfl⟩ <;> exact hd
    simp only [State.stampValue, State.durMs, hx, hd, e1, e2, Option.getD_some] at *
    omega
  obtain ⟨e1, e2, e3, e4, e5, e6, e7, e8, e9, e10, e11, e12, e13, e14, e15, e16⟩ : t.latchPin = s.latchPin ∧
    t.clockPin = s.clockPin ∧ t.dataPin = s.dataPin ∧ t.polarity = s.polarity ∧ t.digitCount = s.digitCount ∧ t.configured = s.configured ∧ t.busy = s.busy ∧ t.f = s.f ∧ t.t0 = s.t0 ∧
    t.dur = s.dur ∧ t.seq = s.seq ∧ t.latched = s.latched ∧ t.latch = s.latch ∧ t.clock = s.clock ∧
    t.data = s.data ∧ t.sleepStart = s.sleepStart := by
    rcases ht with rfl | ⟨r, rfl⟩ <;> simp [State.taken]
  constructor
  all_goals simp only [State.registersValid, e1, e2, e3, e4, e5, e6, e7, e8, e10, e11, e12, e13, e14, e15, e16]
  · exact hi.registers_valid
  · exact hi.unconfigured_registers
  · exact hi.unconfigured_lines
  · exact hi.unconfigured_idle
  · exact hi.busy_iff
  · exact hi.latched_iff
  · exact hi.latched_encodes
  · exact hi.bitcnt_zero
  · exact hi.lines_driven
  · exact hi.latch_low
  · exact hi.latch_high
  · exact hi.sleeping_iff
  · exact fun c h => le_trans (hi.sleep_past c h) htime
  · exact hb
  · intro hc; rw [hn hc]; exact hi.pos_lt hc
  · intro h
    have hc : s.configured = true := hi.configured_of_busy (by rintro h0; simp [h0, Phase.scanning] at h)
    rw [hn hc]; exact hi.frame_live h
  · intro hc; rw [hn hc]; exact hi.frame_beyond hc
  · rw [e9]; exact hi.dead_when_idle
  · exact hi.dur_live
  · exact hs

end Sys2Proof.Machine
end

