-- ==== Sys2Proof/Laws/PerInstr.lean ====
section
/-!
SUPPORT. Statements made for every command, one lemma per constructor: the length a receiver reads from the first
bytes of a packet (spec/30_encoding.md R55) is the length the encoder gave it (R52).
-/

/-- R52, R55: byte 0 and the `LEN` byte of a command's packet tell its length. -/
def Sys2Proof.Laws.EncodedLength.Statement (i : Sys2Proof.Instr) : Prop :=
  i.encodable = true →
    Sys2Proof.formatLength ((Sys2Proof.encode i).headD 0).toNat ((Sys2Proof.encode i).getD 1 0).toNat =
      some (Sys2Proof.encode i).length

namespace Sys2Proof.Laws

theorem EncodedLength.config (latch clock data : Byte) (pol : Polarity) (digits : Byte) :
    EncodedLength.Statement (.config latch clock data pol digits) := fun _ => rfl

theorem EncodedLength.enci (value : Word) : EncodedLength.Statement (.enci value) := fun _ => rfl

theorem EncodedLength.encd (value : Word) (places : Byte) : EncodedLength.Statement (.encd value places) :=
  fun _ => rfl

theorem EncodedLength.enct (text : List Byte) : EncodedLength.Statement (.enct text) := by
  intro h
  simp only [encode, opcodeByte, List.headD_cons, List.getD_cons_succ, List.getD_cons_zero, List.length_cons,
    lenByte_toNat h]
  simp [formatLength]
  omega

theorem EncodedLength.render (frame : List Byte) (dur : Word) : EncodedLength.Statement (.render frame dur) := by
  intro h
  simp only [encode, opcodeByte, List.headD_cons, List.getD_cons_succ, List.getD_cons_zero, List.length_cons,
    List.length_append, bytes32_length, lenByte_toNat h]
  simp [formatLength]
  omega

theorem EncodedLength.printi (value dur : Word) : EncodedLength.Statement (.printi value dur) := fun _ => rfl

theorem EncodedLength.printd (value : Word) (places : Byte) (dur : Word) :
    EncodedLength.Statement (.printd value places dur) := fun _ => rfl

theorem EncodedLength.printt (text : List Byte) (dur : Word) : EncodedLength.Statement (.printt text dur) := by
  intro h
  simp only [encode, opcodeByte, List.headD_cons, List.getD_cons_succ, List.getD_cons_zero, List.length_cons,
    List.length_append, bytes32_length, lenByte_toNat h]
  simp [formatLength]
  omega

end Sys2Proof.Laws
end

