-- ==== Sys2Proof/Laws/Scan.lean ====
section
/-!
SUPPORT. Runs of the sequencer: what the nine pin-level steps of one `ShiftOut` do together (spec/41_scanner.md R87,
R99, R100), and the chain after the sixteen pulses of a load (R102).
-/

namespace Sys2Proof.Machine

/-- What no micro-step of a load touches. -/
structure State.Kept (s t : State) : Prop where
  params      : t.params = s.params
  latchPin    : t.latchPin = s.latchPin
  clockPin    : t.clockPin = s.clockPin
  dataPin     : t.dataPin = s.dataPin
  polarity    : t.polarity = s.polarity
  digitCount  : t.digitCount = s.digitCount
  configured  : t.configured = s.configured
  busy        : t.busy = s.busy
  f           : t.f = s.f
  t0          : t.t0 = s.t0
  dur         : t.dur = s.dur
  latched     : t.latched = s.latched
  hostProgram : t.hostProgram = s.hostProgram
  timeMs      : s.timeMs ≤ t.timeMs

theorem State.Kept.refl (s : State) : s.Kept s := by constructor <;> rfl

theorem State.Kept.trans {s t u : State} (h : s.Kept t) (g : t.Kept u) : s.Kept u := by
  constructor
  case timeMs => exact le_trans h.timeMs g.timeMs
  · exact g.params.trans h.params
  · exact g.latchPin.trans h.latchPin
  · exact g.clockPin.trans h.clockPin
  · exact g.dataPin.trans h.dataPin
  · exact g.polarity.trans h.polarity
  · exact g.digitCount.trans h.digitCount
  · exact g.configured.trans h.configured
  · exact g.busy.trans h.busy
  · exact g.f.trans h.f
  · exact g.t0.trans h.t0
  · exact g.dur.trans h.dur
  · exact g.latched.trans h.latched
  · exact g.hostProgram.trans h.hostProgram

theorem beginStep_kept (s : State) : s.Kept s.beginStep := by
  constructor <;> first | rfl | simp

/-- A row outside the stamp, the hold, the response and completion. -/
theorem rowOf_kept (ph : Phase) (s : State) (h : ph ≠ .rStamp ∧ ph ≠ .done) : s.Kept (rowOf ph s) := by
  constructor <;> simp [rowOf_f, rowOf_t0, rowOf_dur, rowOf_busy, h]

/-- The chain after the first `k` pulses of a byte. -/
def shiftBits (order : BitOrder) (v : Byte) : ℕ → Stages → Stages
  | 0, sr => sr
  | k + 1, sr => shiftIn (wireBit order v k) (shiftBits order v k sr)

/-- One step in a shifting phase, before the byte is out. -/
theorem step_bit {s : State} {order : BitOrder} {v : Byte} {ph after : Phase} {pos : Fin 8} {k : ℕ} (hk : k < 8)
    (hph : ph.shifting = true) (hrow : rowOf ph s.beginStep = s.beginStep.shiftStep order v after)
    (hs : s.seq = ⟨ph, pos, ⟨k, by omega⟩⟩) (hc : s.clock = .low) (hr : s.NoReset) :
    ∃ t, step s = .next t ∧ s.Kept t ∧ t.NoReset ∧ t.seq = ⟨ph, pos, ⟨k + 1, by omega⟩⟩ ∧
      t.sr = shiftIn (wireBit order v k) s.sr ∧ t.latch = s.latch ∧ t.out = s.out ∧ t.clock = .low ∧
      t.data = levelOfBit (wireBit order v k) ∧ t.trace = s.trace := by
  have hstep := step_row (s := s) (ph := ph) (by rw [hs]) hr.next (by rintro rfl; cases hph) (by rintro rfl; cases hph)
  refine ⟨_, hstep, (beginStep_kept s).trans (rowOf_kept _ _ ?_), hr.tail (by simp), ?_⟩
  · constructor <;> (rintro rfl; cases hph)
  have hb : s.beginStep.seq.bitcnt.val = k := by simp [hs]
  rw [hrow, shiftStep_bit _ _ _ (by omega), pulse_eq _ (by simpa using hc)]
  simp [hs]

/-- The step that completes a byte. -/
theorem step_byteEnd {s : State} {order : BitOrder} {v cp dp : Byte} {ph after : Phase} {pos : Fin 8}
    (hph : ph.shifting = true) (hrow : rowOf ph s.beginStep = s.beginStep.shiftStep order v after)
    (hs : s.seq = ⟨ph, pos, 8⟩) (hr : s.NoReset) (hd : s.dataPin = some dp) (hcp : s.clockPin = some cp) :
    ∃ t, step s = .next t ∧ s.Kept t ∧ t.NoReset ∧ t.seq = ⟨after, pos, 0⟩ ∧ t.sr = s.sr ∧ t.latch = s.latch ∧
      t.out = s.out ∧ t.clock = s.clock ∧ t.data = s.data ∧ t.trace = .shiftOut dp cp order v :: s.trace := by
  have hstep := step_row (s := s) (ph := ph) (by rw [hs]) hr.next (by rintro rfl; cases hph) (by rintro rfl; cases hph)
  refine ⟨_, hstep, (beginStep_kept s).trans (rowOf_kept _ _ ?_), hr.tail (by simp), ?_⟩
  · constructor <;> (rintro rfl; cases hph)
  have hb : s.beginStep.seq.bitcnt.val = 8 := by simp [hs]
  rw [hrow, shiftStep_end _ _ _ (by omega)]
  simp [hs, State.pin, hd, hcp]

/-- The nine steps of a `ShiftOut`: the chain takes the eight bits in time order, and one event is recorded. -/
theorem run_byte {s : State} {order : BitOrder} {v cp dp : Byte} {ph after : Phase} {pos : Fin 8}
    (hph : ph.shifting = true)
    (hrow : ∀ u : State, s.Kept u → u.seq.pos = pos → rowOf ph u = u.shiftStep order v after)
    (hs : s.seq = ⟨ph, pos, 0⟩) (hc : s.clock = .low) (hr : s.NoReset) (hd : s.dataPin = some dp)
    (hcp : s.clockPin = some cp) :
    ∃ t, runSteps 9 s = .next t ∧ s.Kept t ∧ t.NoReset ∧ t.seq = ⟨after, pos, 0⟩ ∧
      t.sr = shiftBits order v 8 s.sr ∧ t.latch = s.latch ∧ t.out = s.out ∧ t.clock = .low ∧
      t.data = levelOfBit (wireBit order v 7) ∧ t.trace = .shiftOut dp cp order v :: s.trace := by
  have bits (k : ℕ) (hk : k ≤ 8) : ∃ t, runSteps k s = .next t ∧ s.Kept t ∧ t.NoReset ∧
      t.seq = ⟨ph, pos, ⟨k, by omega⟩⟩ ∧ t.sr = shiftBits order v k s.sr ∧ t.latch = s.latch ∧ t.out = s.out ∧
      t.clock = .low ∧ (0 < k → t.data = levelOfBit (wireBit order v (k - 1))) ∧ t.trace = s.trace := by
    induction k with
    | zero => exact ⟨s, rfl, .refl s, hr, hs, rfl, rfl, rfl, hc, by simp, rfl⟩
    | succ k ih =>
      obtain ⟨t, h1, h2, h3, h4, h5, h6, h7, h8, -, h10⟩ := ih (by omega)
      obtain ⟨u, g1, g2, g3, g4, g5, g6, g7, g8, g9, g10⟩ := step_bit (after := after) (order := order) (v := v)
        (by omega) hph (hrow _ (h2.trans (beginStep_kept t)) (by simp [h4])) h4 h8 h3
      refine ⟨u, ?_, h2.trans g2, g3, g4, ?_, g6.trans h6, g7.trans h7, g8, fun _ => g9, g10.trans h10⟩
      · rw [runSteps_add 1 h1, runSteps_succ g1]; rfl
      · rw [g5, h5]; rfl
  obtain ⟨t, h1, h2, h3, h4, h5, h6, h7, h8, h9, h10⟩ := bits 8 le_rfl
  obtain ⟨u, g1, g2, g3, g4, g5, g6, g7, g8, g9, g10⟩ := step_byteEnd (after := after) (order := order) (v := v)
    (dp := dp) (cp := cp) hph (hrow _ (h2.trans (beginStep_kept t)) (by simp [h4])) h4 h3 (h2.dataPin.trans hd)
    (h2.clockPin.trans hcp)
  refine ⟨u, ?_, h2.trans g2, g3, g4, g5.trans h5, g6.trans h6, g7.trans h7, g8.trans h8, ?_, ?_⟩
  · rw [runSteps_add 1 h1, runSteps_succ g1]; rfl
  · exact g9.trans (h9 (by omega))
  · rw [g10, h10]

/-- A step in a phase that drives `LATCH`. -/
theorem step_latch {s : State} {ph after : Phase} {level : Level} {lp : Byte} {pos : Fin 8}
    {sleep : State → Option ℕ}
    (hrow : ∀ u : State, rowOf ph u = { (u.setLevel .latch level).goto after with sleepStart := sleep u })
    (hph : ph ≠ .idle ∧ ph ≠ .encode ∧ ph ≠ .rStamp ∧ ph ≠ .done) (hs : s.seq = ⟨ph, pos, 0⟩) (hr : s.NoReset)
    (hl : s.latchPin = some lp) :
    ∃ t, step s = .next t ∧ s.Kept t ∧ t.NoReset ∧ t.seq = ⟨after, pos, 0⟩ ∧ t.sr = s.sr ∧ t.latch = level ∧
      t.out = (if s.latch = .low ∧ level = .high then s.sr else s.out) ∧ t.clock = s.clock ∧ t.data = s.data ∧
      t.trace = .setLevel .latch lp level :: s.trace ∧ t.sleepStart = sleep s.beginStep := by
  have hstep := step_row (s := s) (ph := ph) (by rw [hs]) hr.next hph.1 hph.2.1
  refine ⟨_, hstep, (beginStep_kept s).trans (rowOf_kept _ _ hph.2.2), hr.tail (by simp), ?_⟩
  rw [hrow]
  refine ⟨by simp [State.setLevel, hs], by simp [State.setLevel], by simp [State.setLevel], ?_, by simp [State.setLevel],
    by simp [State.setLevel], by simp [State.setLevel, State.pin, hl], rfl⟩
  by_cases h : s.latch = .low ∧ level = .high <;> simp [State.setLevel, h]

theorem shiftIn_getElem (d : Bool) (sr : Stages) (i : ℕ) (h : i < 16) :
    (shiftIn d sr)[i] = if i = 0 then some d else sr[i - 1] := by
  by_cases h0 : i = 0 <;> simp [shiftIn, h0, Vector.get_eq_getElem]

/-- After `k` pulses stage `i` holds the bit of `i` pulses ago. -/
theorem shiftBits_getElem (order : BitOrder) (v : Byte) (k : ℕ) (sr : Stages) (i : ℕ) (h : i < 16) :
    (shiftBits order v k sr)[i] = if i < k then some (wireBit order v (k - 1 - i)) else sr[i - k] := by
  induction k generalizing i with
  | zero => simp [shiftBits]
  | succ k ih =>
    rw [shiftBits, shiftIn_getElem _ _ _ h]
    by_cases h0 : i = 0
    · simp [h0]
    · rw [if_neg h0, ih _ (by omega)]
      by_cases h1 : i < k + 1
      · rw [if_pos (by omega), if_pos h1]
        congr 2
        omega
      · rw [if_neg (by omega), if_neg h1]
        congr 1
        omega

/-- R102: sixteen pulses after any content, the far register holds the select byte reversed and the near one the
segment byte. -/
theorem shiftBits_load (sel seg : Byte) (sr : Stages) :
    shiftBits .msbFirst seg 8 (shiftBits .lsbFirst sel 8 sr) = loadedStages sel seg := by
  apply Vector.ext
  intro i hi
  rw [shiftBits_getElem _ _ _ _ _ hi]
  simp only [loadedStages, stagesOf, Vector.getElem_ofFn, BitVec.getLsbD_append]
  by_cases h : i < 8
  · rw [if_pos h]
    simp [wireBit, h, show 7 - (7 - i) = i by omega]
  · rw [if_neg h, shiftBits_getElem _ _ _ _ _ (by omega), if_pos (by omega)]
    simp [h, wireBit, rev8, show i - 8 < 8 by omega]

end Sys2Proof.Machine
end

