-- ==== Sys2Proof/Tests/Slice0.lean ====
section
/-!
SUPPORT. Tests: ill-formed commands the checks refuse, packets written out byte by byte from spec/30_encoding.md,
single steps with results from spec/95_test_vectors.md and the worked examples of the rules, and, for every statement
with hypotheses, a concrete state and operands that meet them.
-/

namespace Sys2Proof.Tests

open Sys2Proof.Machine

/-! ### Helpers -/

/-- Right after reset, with the sample hold time of the vectors (2 ms) and the clock at 0. -/
def base : State := { State.reset with params := defaultParams 2, timeMs := 0 }

/-- Configured with the pins of R105's worked example, waiting for a command. -/
def ready (pol : Polarity) (n : Byte) : State :=
  { base.configure 10#8 11#8 12#8 pol n with busy := false, seq := ⟨.idle, 0, 0⟩, trace := [] }

/-- CommonCathode, four digits: most vectors. -/
def cc4 : State := ready .commonCathode 4#8

/-- The same block in `ENCODE` with a command latched. -/
def encoding (i : Instr) (s : State) : State := { s with busy := true, latched := some i, seq := ⟨.encode, 0, 0⟩ }

/-- The frame the encode step of a command leaves in `F[0..N-1]`. -/
def frameOf (i : Instr) (s : State) : Option (List Byte) :=
  match exec i (encoding i s) with
  | .next t => some t.frame
  | .fault _ => none
  | .refused _ => none

/-- A scan of `ENCI -7`'s frame in progress: the given phase and position, duration 5, stamped at 0; a hold begins now,
and a blanking comes when the duration has run out. -/
def scan (ph : Phase) (pos : Fin 8) (latch : Level) : State :=
  { cc4 with busy := true, f := writeFrame cc4.f [0x00#8, 0x00#8, 0x40#8, 0x07#8], dur := some 5#32, t0 := some 0,
             seq := ⟨ph, pos, 0⟩, latch := latch, timeMs := if ph.blanking then 5 else 0,
             sleepStart := if ph = .rHold then some 0 else none }

/-- The clock moves by these milliseconds before the next steps, without `RESET`. -/
def moved (ms : List Nat) (s : State) : State := { s with platform := ms.map (⟨·, false⟩) }

/-- A packet on the `CMD` port. -/
def offered (p : Packet) (s : State) : State := { s with hostProgram := [p] }

/-- What one step does to a field. -/
def after {α : Type} (field : State → α) (o : Host.Outcome State Fault Refusal) : Option α :=
  match o with
  | .next t => some (field t)
  | .fault _ => none
  | .refused _ => none

/-- How a step was refused. -/
def refusedWith (o : Host.Outcome State Fault Refusal) : Option Refusal :=
  match o with
  | .next _ => none
  | .fault _ => none
  | .refused r => some r

/-! ### WellFormed: one ill-formed command for each check -/

/-- 256 bytes do not fit the `LEN` byte. -/
theorem tooLong (b : Byte) : lengthFitsLen (List.replicate 256 b) = false := by
  rw [lengthFitsLen, List.length_replicate]; rfl

theorem test_wellFormed_digits_zero : (Instr.config 1 2 3 .commonCathode 0).wellFormed = false := by decide
theorem test_wellFormed_digits_nine : (Instr.config 1 2 3 .commonCathode 9).wellFormed = false := by decide
theorem test_wellFormed_latch_is_clock : (Instr.config 1 1 3 .commonCathode 4).wellFormed = false := by decide
theorem test_wellFormed_latch_is_data : (Instr.config 1 2 1 .commonCathode 4).wellFormed = false := by decide
theorem test_wellFormed_clock_is_data : (Instr.config 1 2 2 .commonCathode 4).wellFormed = false := by decide
theorem test_wellFormed_encd_infinity : (Instr.encd 0x7F800000 2).wellFormed = false := by decide
theorem test_wellFormed_printd_nan : (Instr.printd 0xFFC00000 2 10).wellFormed = false := by decide
theorem test_wellFormed_frame_empty : (Instr.render [] 10).wellFormed = false := by decide
theorem test_wellFormed_frame_nine : (Instr.render (List.replicate 9 0) 10).wellFormed = false := by decide
theorem test_wellFormed_text_long : (Instr.enct (List.replicate 256 0x41)).wellFormed = false := tooLong _
theorem test_wellFormed_printt_long : (Instr.printt (List.replicate 256 0x41) 1).wellFormed = false := tooLong _
theorem test_encodable_text_long : (Instr.enct (List.replicate 256 0x41)).encodable = false := tooLong _
theorem test_encodable_frame_long : (Instr.render (List.replicate 256 0) 1).encodable = false := tooLong _

/-! ### Decoding: packets from R52, R53 and R61, one per command, and the four rejections of R58 -/

theorem test_decode_config :
    decode [0x01, 0x02, 0x03, 0x04, 0x01, 0x08] = .ok (.config 2 3 4 .commonAnode 8) := by decide
theorem test_decode_enci : decode [0x10, 0x78, 0x56, 0x34, 0x12] = .ok (.enci 0x12345678) := by decide
theorem test_decode_encd : decode [0x11, 0xD0, 0x0F, 0x49, 0x40, 0x02] = .ok (.encd 0x40490FD0 2) := by decide
theorem test_decode_enct : decode [0x12, 0x02, 0x48, 0x69] = .ok (.enct [0x48, 0x69]) := by decide
theorem test_decode_render : decode [0x20, 0x04, 0x00, 0x00, 0x40, 0x07, 0xE8, 0x03, 0x00, 0x00] =
    .ok (.render [0x00, 0x00, 0x40, 0x07] 1000) := by decide
theorem test_decode_printi :
    decode [0x30, 0x7B, 0x00, 0x00, 0x00, 0xF4, 0x01, 0x00, 0x00] = .ok (.printi 123 500) := by decide
theorem test_decode_printd : decode [0x31, 0x00, 0x00, 0x00, 0xBF, 0x02, 0xFA, 0x00, 0x00, 0x00] =
    .ok (.printd 0xBF000000 2 250) := by decide
theorem test_decode_printt :
    decode [0x32, 0x01, 0x41, 0x04, 0x03, 0x02, 0x01] = .ok (.printt [0x41] 0x01020304) := by decide
theorem test_decode_reserved : decode [0x02] = .error (.reservedOpcode 0x02) := by decide
theorem test_decode_short : decode [0x10, 0x00, 0x00, 0x00] = .error .wrongLength := by decide
theorem test_decode_long : decode [0x12, 0x01, 0x41, 0x42] = .error .wrongLength := by decide
theorem test_decode_polarity :
    decode [0x01, 0x02, 0x03, 0x04, 0x02, 0x08] = .error (.reservedPolarity 0x02) := by decide
/-- R51: byte 0 of the packet is bits 7 to 0 of the table word, byte 1 bits 15 to 8. -/
theorem test_decode_table_word : decodeTableWord 40 0x1234567810 = some (.enci 0x12345678) := by decide
theorem test_decode_table_render : decodeTableWord 8 0x20 = some (.render [] 0) := by decide

/-! ### Encode steps: the vectors of 95_test_vectors.md -/

/-- S2, V-I24. -/
theorem test_enci_minus_seven : frameOf (.enci 0xFFFFFFF9) cc4 = some [0x00, 0x00, 0x40, 0x07] ∧
    frameOf (.enci 0xFFFFFFF9) (ready .commonAnode 4) = some [0xFF, 0xFF, 0xBF, 0xF8] := by decide
/-- V-I21: the magnitude of the most negative operand is taken in Z. -/
theorem test_enci_most_negative : frameOf (.enci 0x80000000) (ready .commonCathode 8) =
    some [0x66, 0x07, 0x66, 0x7F, 0x4F, 0x7D, 0x66, 0x7F] := by decide
/-- S5. -/
theorem test_encd_pi : frameOf (.encd 0x40490FD0 2) cc4 = some [0x00, 0xCF, 0x06, 0x66] := by decide
/-- R75 (a): `ENCD 0.125, 2`, a tie that goes up. -/
theorem test_encd_tie : frameOf (.encd 0x3E000000 2) cc4 = some [0x00, 0xBF, 0x06, 0x4F] := by decide
/-- S7. -/
theorem test_enct_unsupported : frameOf (.enct [0x41, 0x21, 0x42]) cc4 = some [0x77, 0x00, 0x7C, 0x00] := by decide
/-- R79 (h). -/
theorem test_enct_minus : frameOf (.enct [0x2D, 0x31, 0x32]) cc4 = some [0x40, 0x06, 0x5B, 0x00] := by decide
/-- R107: the frame of the worked example, the duration and the next phase. -/
theorem test_printi : frameOf (.printi 0xFFFFFFF9 5) cc4 = some [0x00, 0x00, 0x40, 0x07] ∧
    after (fun t => (t.dur, t.seq.phase)) (exec (.printi 0xFFFFFFF9 5) (encoding (.printi 0xFFFFFFF9 5) cc4)) =
      some (some 5, .rStamp) := by decide
/-- R108: the worked example. -/
theorem test_printd : frameOf (.printd 0x40490FD0 2 1000) (ready .commonAnode 4) =
    some [0xFF, 0x30, 0xF9, 0x99] := by decide
/-- R109: the worked example. -/
theorem test_printt : frameOf (.printt [0x48, 0x69] 1000) cc4 = some [0x76, 0x30, 0x00, 0x00] := by decide

/-! ### CONFIG, RENDER and the scanner -/

/-- R105: the worked example. -/
theorem test_config :
    after (fun t => ([t.latchPin, t.clockPin, t.dataPin], t.polarity, t.digitCount, [t.latch, t.clock, t.data]))
      (exec (.config 10 11 12 .commonCathode 4) base) =
      some ([some 10, some 11, some 12], some .commonCathode, some 4, [.low, .low, .low]) := by decide
/-- R112 (b). -/
theorem test_config_twice :
    refusedWith (exec (.config 10 11 12 .commonCathode 4) cc4) = some .alreadyConfigured := by decide
/-- R85. -/
theorem test_render : after (fun t => (t.frame, t.dur, t.seq.phase, t.busy))
    (exec (.render [0x00, 0x00, 0x40, 0x07] 1000) cc4) =
      some ([0x00, 0x00, 0x40, 0x07], some 1000, .rStamp, true) := by decide
/-- U5. -/
theorem test_render_length :
    refusedWith (exec (.render [0x00] 1000) cc4) = some .frameLengthMismatch := by decide
/-- R91: the default table, position 2. -/
theorem test_select_byte : selByte (defaultParams 2) .commonCathode 2 = 0xFB ∧
    selByte (defaultParams 2) .commonAnode 2 = 0x04 := by decide
/-- V-W3: the chain after the load (0xFD, 0xCF), started from 0x1234. -/
theorem test_chain_after_load : shiftBits .msbFirst 0xCF 8 (shiftBits .lsbFirst 0xFD 8 (stagesOf 0x1234)) =
    stagesOf 0xBFCF := by decide
/-- P5, step 2: two bits of 0xFE shifted into a chain with every stage unknown. -/
theorem test_chain_unknown : (shiftBits .lsbFirst 0xFE 2 (Vector.replicate 16 none)).toList =
    some true :: some false :: List.replicate 14 none := by decide
/-- R92: the comparison is strict. -/
theorem test_check_strict :
    after (fun t => t.seq.phase) (.next (advance { scan .rCheck 0 .high with timeMs := 5 })) = some .bLatchLo ∧
    after (fun t => t.seq.phase) (.next (advance { scan .rCheck 0 .high with timeMs := 4 })) = some .rLatchLo := by
  decide
/-- R96, row R_HOLD: `POS` wraps at N, and the check comes at the end of the pass. -/
theorem test_hold_wraps : after (fun t => t.seq) (step (moved [2] (scan .rHold 3 .high))) = some ⟨.rCheck, 0, 0⟩ ∧
    after (fun t => t.seq) (step (moved [2] (scan .rHold 2 .high))) = some ⟨.rLatchLo, 3, 0⟩ := by decide
/-- R96, R89: a hold of 2 ms has no step after a move of 1 ms, and ends 2 ms after it began after one of 2 ms. -/
theorem test_hold_waits :
    after (fun t => (t.seq, t.timeMs, t.sleepStart)) (step (moved [1] (scan .rHold 0 .high))) =
      some (⟨.rHold, 0, 0⟩, 1, some 0) ∧
    after (fun t => (t.seq, t.timeMs, t.sleepStart)) (step (moved [2] (scan .rHold 0 .high))) =
      some (⟨.rLatchLo, 1, 0⟩, 2, none) := by decide
/-- The host's word is taken by the very next step: a command that encodes is latched, a CONFIG configures. -/
theorem test_withFetchWord :
    after (fun t => t.latched) (step (State.reset.withFetchWord 40 0x0000000710)) = some (some (.enci 7)) := by rfl
theorem test_withFetchWord_config : after (fun t => (t.configured, t.digitCount))
    (step (State.reset.withFetchWord 48 0x04000C0B0A01)) = some (true, some 4) := by rfl

/-! ### Witnesses: the hypotheses of the statements, met together -/

/-- A scan in progress meets the invariant, in every scanning phase and at every position. -/
theorem scan_inv (ph : Phase) (pos : Fin 8) (latch : Level) (h : ph.scanning = true) (hpos : pos.val < 4)
    (hl : ph.loading = true → latch = .low) (hh : ph = .rHold → latch = .high) (hu : latch ≠ .undriven) :
    (scan ph pos latch).Inv := by
  have hf : ∀ k : Fin 8, k.val < 4 → ((scan ph pos latch).f.get k).isSome = true := by
    intro k; revert k; show ∀ k : Fin 8, k.val < 4 → ((scan .rCheck 0 .high).f.get k).isSome = true; decide
  have hf' : ∀ k : Fin 8, 4 ≤ k.val → (scan ph pos latch).f.get k = none := by
    intro k; revert k; show ∀ k : Fin 8, 4 ≤ k.val → (scan .rCheck 0 .high).f.get k = none; decide
  have hi : ph ≠ .idle := by rintro rfl; cases h
  have he : ph ≠ .encode := by rintro rfl; cases h
  constructor
  · intro _; show (scan .rCheck 0 .high).registersValid = true; decide
  · intro hc; cases hc
  · intro hc; cases hc
  · intro hc; cases hc
  · exact ⟨fun _ => hi, fun _ => rfl⟩
  · exact ⟨fun hc => (by cases hc), fun hc => absurd hc he⟩
  · intro i hc; cases hc
  · intro _; rfl
  · intro _; exact ⟨rfl, hu, by show Level.low ≠ .undriven; decide⟩
  · exact hl
  · exact hh
  · show (if ph = .rHold then some 0 else none : Option Nat).isSome = true ↔ ph = .rHold
    split <;> simp_all
  · intro start hs
    have hs : (if ph = .rHold then some 0 else none : Option Nat) = some start := hs
    split at hs
    · cases hs; exact Nat.zero_le _
    · cases hs
  · intro hb
    show 5 ≤ (if ph.blanking = true then 5 else 0) - 0
    have hb : ph.blanking = true := hb
    simp [hb]
  · intro _; exact hpos
  · intro _; exact hf
  · intro _; exact hf'
  · rintro (hc | hc)
    · exact absurd hc hi
    · exact absurd hc he
  · intro _; rfl
  · intro _; exact ⟨rfl, Nat.zero_le _⟩

/-- Where no platform input is listed `RESET` is not asserted. -/
theorem noReset_of_nil {s : State} (h : s.platform = []) : s.NoReset := by
  intro i hi; rw [h] at hi; cases hi

theorem witness_noReset : cc4.NoReset ∧ cc4.Waiting ∧ cc4.n = 4 := by
  exact ⟨noReset_of_nil rfl, ⟨rfl, rfl, rfl⟩, rfl⟩

theorem witness_DecodeInvertsEncode : (Instr.enct (List.replicate 255 0x41)).encodable = true ∧
    (Instr.render [] 0).encodable = true ∧ (Instr.printd 0x7F800000 255 0xFFFFFFFF).encodable = true := by
  refine ⟨?_, rfl, rfl⟩
  show lengthFitsLen _ = true
  rw [lengthFitsLen, List.length_replicate]; rfl

theorem witness_EncodeInvertsDecode : decode [0x12, 0x00] = .ok (.enct []) := by decide

/-- One packet for each clause, at the edges: opcode 0x00 and 0xFF, one byte short and one long, `POL` 2, an infinity
and a NaN, a frame one byte short and one long of four. -/
theorem witness_MeaninglessPacketsAreRefused : cc4.Waiting ∧
    formatLength 0x00 0 = none ∧ formatLength 0xFF 0 = none ∧ formatLength 0x10 0x01 = some 5 ∧
    (1 : ℕ) < (2#8).toNat ∧ cc4.configured = true ∧
    decode [0x11, 0x00, 0x00, 0x80, 0x7F, 0x02] = .ok (.encd 0x7F800000 2) ∧ binary32Exponent 0x7F800000 = 255 ∧
    decode [0x31, 0x00, 0x00, 0xC0, 0xFF, 0x00, 0x01, 0x00, 0x00, 0x00] = .ok (.printd 0xFFC00000 0 1) ∧
    binary32Exponent 0xFFC00000 = 255 ∧
    decode [0x20, 0x03, 0x01, 0x02, 0x03, 0x01, 0x00, 0x00, 0x00] = .ok (.render [1, 2, 3] 1) ∧
    decode [0x20, 0x05, 0x01, 0x02, 0x03, 0x04, 0x05, 0x01, 0x00, 0x00, 0x00] = .ok (.render [1, 2, 3, 4, 5] 1) ∧
    cc4.digitCount = some 4 := by
  refine ⟨witness_noReset.2.1, ?_⟩
  decide

theorem witness_StepTakesPresentedCommand : (offered [0x10, 0x07, 0x00, 0x00, 0x00] cc4).Waiting ∧
    (offered [0x10, 0x07, 0x00, 0x00, 0x00] cc4).hostProgram = [[0x10, 0x07, 0x00, 0x00, 0x00]] ∧
    decode [0x10, 0x07, 0x00, 0x00, 0x00] = .ok (.enci 7) := ⟨⟨rfl, rfl, rfl⟩, rfl, by decide⟩

theorem witness_StepRunsTheSequencer :
    ((encoding (.enci 7) cc4).nextInput.reset = false ∧ (encoding (.enci 7) cc4).seq.phase = .encode ∧
      (encoding (.enci 7) cc4).latched = some (.enci 7)) ∧
    ((scan .rStamp 0 .high).nextInput.reset = false ∧ (scan .rStamp 0 .high).seq.phase = .rStamp) ∧
    (cc4.nextInput.reset = false ∧ cc4.seq.phase = .idle ∧ cc4.hostProgram = []) := by
  refine ⟨⟨rfl, rfl, rfl⟩, ⟨rfl, rfl⟩, rfl, rfl, rfl⟩

/-- The least and the greatest digit count. -/
theorem witness_ConfigWritesTheConfiguration : base.seq.phase = .idle ∧ base.busy = false ∧
    base.configured = false ∧ 1 ≤ (1#8).toNat ∧ (1#8).toNat ≤ 8 ∧ 1 ≤ (8#8).toNat ∧ (8#8).toNat ≤ 8 ∧
    (0#8 ≠ 1#8) ∧ (0#8 ≠ 255#8) ∧ (1#8 ≠ 255#8) := by
  refine ⟨rfl, rfl, rfl, ?_⟩; decide

/-- Digit counts 0, 9 and 255, and each pair of equal pins beside a digit count in range. -/
theorem witness_ConfigOutsideTheContractIsRefused : (cc4.seq.phase = .idle ∧ cc4.busy = false ∧
      cc4.configured = true) ∧ (base.seq.phase = .idle ∧ base.busy = false ∧ base.configured = false) ∧
    (0#8).toNat = 0 ∧ 8 < (9#8).toNat ∧ 8 < (255#8).toNat ∧
    refusedWith (exec (.config 1 1 2 .commonAnode 1) base) = some .pinsNotDistinct ∧
    refusedWith (exec (.config 1 2 1 .commonAnode 8) base) = some .pinsNotDistinct ∧
    refusedWith (exec (.config 2 1 1 .commonAnode 8) base) = some .pinsNotDistinct := by
  refine ⟨⟨rfl, rfl, rfl⟩, ⟨rfl, rfl, rfl⟩, ?_⟩; decide

/-- Each of the six commands that encode. -/
theorem witness_EncodingCommandsAreAccepted : (cc4.seq.phase = .idle ∧ cc4.busy = false ∧ cc4.configured = true) ∧
    ([.enci 0, .encd 0 0, .encd 0xFF7FFFFF 255, .enct [], .printi 0 0, .printd 0x80000000 1 0, .printt [] 0] :
      List Instr).all encodesInContract = true := by
  refine ⟨⟨rfl, rfl, rfl⟩, ?_⟩; decide

theorem witness_UnconfiguredBlockRefuses : (base.seq.phase = .idle ∧ base.busy = false ∧ base.configured = false) ∧
    ∀ latch clock data pol digits, Instr.render [0x00] 1 ≠ .config latch clock data pol digits := by
  refine ⟨⟨rfl, rfl, rfl⟩, ?_⟩; simp

/-- In another phase, and in `ENCODE` with another command latched. -/
theorem witness_CommandNotAcceptedHasNoEffect : (scan .rHold 0 .high).busy = true ∧
    ¬((scan .rHold 0 .high).seq.phase = .encode ∧ (scan .rHold 0 .high).latched = some (.enci 1)) ∧
    (encoding (.enci 2) cc4).busy = true ∧
    ¬((encoding (.enci 2) cc4).seq.phase = .encode ∧ (encoding (.enci 2) cc4).latched = some (.enci 1)) := by
  decide

theorem witness_BusyBlockTakesNoPacket : (offered [0x12, 0x00] (scan .rStamp 0 .high)).busy = true ∧
    ∃ t, step (offered [0x12, 0x00] (scan .rStamp 0 .high)) = .next t := ⟨rfl, _, rfl⟩

/-- R79 (e): the neighbours of the supported ranges meet the hypotheses of the last clause. -/
theorem witness_CharacterMapIsAscii : ∀ c ∈ ([0x00, 0x20, 0x2C, 0x2E, 0x2F, 0x3A, 0x40, 0x5B, 0x60, 0x7B, 0xFF] :
    List Byte), ¬(0x41 ≤ c.toNat ∧ c.toNat ≤ 0x5A) ∧ ¬(0x61 ≤ c.toNat ∧ c.toNat ≤ 0x7A) ∧
      ¬(0x30 ≤ c.toNat ∧ c.toNat ≤ 0x39) ∧ c.toNat ≠ 0x2D := by decide

/-- The hypotheses of the three statements about ENCI, ENCD and ENCT, and of the one about the PRINTs. -/
theorem witness_encode_step (i : Instr) : (encoding i cc4).seq.phase = .encode ∧ (encoding i cc4).latched = some i ∧
    binary32Finite 0x40490FD0 = true ∧ binary32Finite 0x00000000 = true ∧ binary32Finite 0xFF7FFFFF = true := by
  refine ⟨rfl, rfl, ?_⟩; decide

theorem witness_LayoutLoopIsItsClosedForm : (1 : ℕ) ≤ 1 ∧ (1 : ℕ) ≤ 256 := by decide

theorem witness_CommonAnodeFrameIsComplement (i : Instr) (h : encodesInContract i = true) :
    ∃ t, exec i { encoding i cc4 with polarity := some .commonCathode } = .next t := ⟨_, exec_encode rfl rfl h⟩

theorem witness_EqualConfigurationsEncodeEqualFrames :
    ∃ t, exec (.enci 7) (encoding (.enci 7) cc4) = .next t ∧ (encoding (.enci 7) cc4).params = cc4.params ∧
      (encoding (.enci 7) cc4).polarity = some .commonCathode ∧ (encoding (.enci 7) cc4).digitCount = some 4 ∧
      ({ encoding (.enci 7) cc4 with timeMs := 9, latch := .high }).latched = some (.enci 7) :=
  ⟨_, exec_encode rfl rfl rfl, rfl, rfl, rfl, rfl⟩

theorem witness_TextCommandsIgnoreCase : (encoding (.enct []) cc4).seq.phase = .encode ∧
    ([0x48, 0x69] : List Byte).map upperCase = ([0x68, 0x49] : List Byte).map upperCase := by decide

theorem witness_CommandsLeaveTheEnvironmentAlone : (∃ t, exec (.enci 7) cc4 = .next t) ∧
    ∃ t, exec (.config 1 2 3 .commonAnode 8) base = .next t := ⟨⟨_, rfl⟩, _, rfl⟩

theorem witness_EncodeOnlyCommandAnswersItsFrame :
    let s := offered [0x10, 0x07, 0x00, 0x00, 0x00] cc4
    s.Waiting ∧ s.NoReset ∧ s.configured = true ∧ s.digitCount.isSome = true ∧ s.polarity.isSome = true ∧
      s.n ≤ 8 ∧ s.hostProgram = [[0x10, 0x07, 0x00, 0x00, 0x00]] ∧
      decode [0x10, 0x07, 0x00, 0x00, 0x00] = .ok (.enci 7) ∧ encodesInContract (.enci 7) = true ∧
      ∃ e, exec (.enci 7) (s.accept (.enci 7)) = .next e := by
  exact ⟨⟨rfl, rfl, rfl⟩, noReset_of_nil rfl, rfl, rfl, rfl, by decide, rfl, by decide, rfl, _,
    exec_encode rfl rfl rfl⟩

/-- The three clauses, each with a command its encode step accepts. -/
theorem witness_PrintIsRenderOfItsEncodedFrame :
    (cc4.seq.phase = .idle ∧ cc4.busy = false ∧ cc4.configured = true ∧ cc4.latched = none ∧ cc4.n ≤ 8) ∧
    (∃ e, exec (.enci 7) (cc4.accept (.enci 7)) = .next e) ∧
    (∃ e, exec (.encd 0x40490FD0 2) (cc4.accept (.encd 0x40490FD0 2)) = .next e) ∧
    ∃ e, exec (.enct []) (cc4.accept (.enct [])) = .next e :=
  ⟨⟨rfl, rfl, rfl, rfl, by decide⟩, ⟨_, exec_encode rfl rfl rfl⟩, ⟨_, exec_encode rfl rfl (by decide)⟩, _,
    exec_encode rfl rfl rfl⟩

theorem witness_RenderStartsTheScan : cc4.seq.phase = .idle ∧ cc4.busy = false ∧ cc4.configured = true ∧
    ([0, 0, 0x40, 7] : List Byte).length = cc4.n := by decide

/-- A RENDER just accepted, an encode-only command that has written its frame, and the same with its answer given. -/
def accepted : State := cc4.startRender [0x00#8, 0x00#8, 0x40#8, 0x07#8] 5#32
def encoded : State := (cc4.accept (.enci 7)).finishEncode [0x00#8, 0x00#8, 0x00#8, 0x07#8] none
def answered : State := rowRespond encoded

theorem accepted_inv : accepted.Inv := by constructor <;> decide
theorem encoded_inv : encoded.Inv := by constructor <;> decide
theorem answered_inv : answered.Inv := by constructor <;> decide

/-- Every row of the table but IDLE and ENCODE; the hold at the last position and before it, with the clock moved by
too little and by enough. -/
theorem witness_SequencerFollowsItsTable :
    (accepted.Inv ∧ accepted.seq.phase = .rStamp) ∧ (encoded.Inv ∧ encoded.seq.phase = .respond) ∧
    (answered.Inv ∧ answered.seq.phase = .done) ∧ (scan .rCheck 0 .high).Inv ∧ (scan .rLatchLo 3 .high).Inv ∧
    (scan .rShiftSel 0 .low).Inv ∧ (scan .rShiftSeg 0 .low).Inv ∧ (scan .rLatchHi 0 .low).Inv ∧
    (scan .rHold 3 .high).Inv ∧ (scan .rHold 2 .high).Inv ∧ (scan .bLatchLo 0 .high).Inv ∧
    (scan .bShift1 0 .low).Inv ∧ (scan .bShift2 0 .low).Inv ∧ (scan .bLatchHi 0 .low).Inv ∧
    accepted.nextInput.reset = false ∧ encoded.nextInput.reset = false ∧ answered.nextInput.reset = false ∧
    (scan .rHold 3 .high).nextInput.reset = false := by
  refine ⟨⟨accepted_inv, rfl⟩, ⟨encoded_inv, rfl⟩, ⟨answered_inv, rfl⟩, ?_, ?_, ?_, ?_, ?_, ?_, ?_, ?_, ?_, ?_, ?_,
    rfl, rfl, rfl, rfl⟩ <;> apply scan_inv <;> decide

/-- The check at the answers 4 and 5 for a duration of 5, and the stamp. -/
theorem witness_ScanChecksElapsedStrictly :
    ((scan .rStamp 0 .high).nextInput.reset = false ∧ (scan .rStamp 0 .high).seq.phase = .rStamp) ∧
    (∀ ms ∈ [4, 5], let s := { scan .rCheck 0 .high with timeMs := 0, platform := [⟨ms, false⟩] }
      s.nextInput.reset = false ∧ s.seq.phase = .rCheck ∧ s.t0 = some 0 ∧ s.dur = some 5) := by
  refine ⟨⟨rfl, rfl⟩, ?_⟩; decide

/-- The latch-high, and a hold with the clock one millisecond short and just there. -/
theorem witness_HoldKeepsTheDigitLit :
    ((scan .rLatchHi 0 .low).seq.phase = .rLatchHi ∧ (scan .rLatchHi 0 .low).nextInput.reset = false) ∧
    ∀ ms ∈ [1, 2], let s := moved [ms] (scan .rHold 3 .high)
      s.seq.phase = .rHold ∧ s.nextInput.reset = false ∧ s.sleepStart = some 0 ∧
      (if ms = 1 then s.timeMs + s.nextInput.advanceMs < 0 + s.params.povDelayMs
        else 0 + s.params.povDelayMs ≤ s.timeMs + s.nextInput.advanceMs) := by
  refine ⟨⟨rfl, rfl⟩, ?_⟩; decide

theorem witness_ZeroDurationScansNothing :
    let s := { scan .rStamp 0 .high with dur := some 0#32 }
    s.seq.phase = .rStamp ∧ s.dur = some 0#32 ∧ s.NoReset := by
  exact ⟨rfl, rfl, noReset_of_nil rfl⟩

/-- The first load of a scan and the last of a pass. -/
theorem witness_LoadCommitsBothBytes (pos : Fin 8) (h : pos = 0 ∨ pos = 3) :
    let s := scan .rLatchLo pos .high
    s.Inv ∧ s.NoReset ∧ s.seq.phase = .rLatchLo ∧ (s.f.get s.seq.pos).isSome = true ∧ s.latchPin = some 10 ∧
      s.clockPin = some 11 ∧ s.dataPin = some 12 ∧ s.polarity = some .commonCathode := by
  rcases h with rfl | rfl <;>
    exact ⟨scan_inv _ _ _ rfl (by decide) (by decide) (by decide) (by decide), noReset_of_nil rfl, rfl,
      by decide, rfl, rfl, rfl, rfl⟩

theorem witness_BlankingClearsTheChain :
    let s := scan .bLatchLo 0 .high
    s.Inv ∧ s.NoReset ∧ s.seq.phase = .bLatchLo ∧ s.latchPin = some 10 ∧ s.clockPin = some 11 ∧
      s.dataPin = some 12 :=
  ⟨scan_inv _ _ _ rfl (by decide) (by decide) (by decide) (by decide), noReset_of_nil rfl, rfl, rfl, rfl, rfl⟩

/-- A RENDER just accepted, with a clock that then moves by one millisecond in each of as many steps as `scanMoves`
asks for, for a hold time of 2 ms and of 0. -/
def paced (povDelayMs moves : ℕ) : State :=
  moved (List.replicate moves 1) { accepted with params := defaultParams povDelayMs }

/-- The invariant does not speak of the parameters and the clock's next moves. -/
theorem inv_moved {s : State} (ms : List Nat) (p : Params) (hi : s.Inv) : (moved ms { s with params := p }).Inv := by
  cases hi
  constructor <;> assumption

theorem paced_inv (povDelayMs moves : ℕ) : (paced povDelayMs moves).Inv := inv_moved _ _ accepted_inv

theorem paced_noReset (povDelayMs moves : ℕ) : (paced povDelayMs moves).NoReset := by
  intro i hi
  simp only [paced, moved, List.map_replicate] at hi
  rw [List.eq_of_mem_replicate hi]

theorem paced_fair (povDelayMs moves : ℕ) : (paced povDelayMs moves).clockMovesWithin moves = moves := by
  have h : ∀ j ∈ List.range moves, decide (0 < (paced povDelayMs moves).clockMove j) = true := by
    intro j hj
    simp only [List.mem_range] at hj
    simp [State.clockMove, paced, moved, hj]
  rw [State.clockMovesWithin, List.countP_eq_length.2 h, List.length_range]

theorem witness_ScanTerminatesAndBlanks :
    ((paced 2 99).Inv ∧ (paced 2 99).NoReset ∧ (paced 2 99).seq.phase = .rStamp ∧ (paced 2 99).dur = some 5 ∧
      (paced 2 99).scanMoves 5 ≤ (paced 2 99).clockMovesWithin 99) ∧
    ((paced 0 91).Inv ∧ (paced 0 91).NoReset ∧ (paced 0 91).seq.phase = .rStamp ∧ (paced 0 91).dur = some 5 ∧
      (paced 0 91).scanMoves 5 ≤ (paced 0 91).clockMovesWithin 91) := by
  rw [paced_fair, paced_fair]
  exact ⟨⟨paced_inv _ _, paced_noReset _ _, rfl, rfl, by decide⟩, paced_inv _ _, paced_noReset _ _, rfl, rfl, by decide⟩

theorem witness_ScanEmitsItsTrace : (paced 2 99).Inv ∧ (paced 2 99).NoReset ∧ (paced 2 99).seq.phase = .rStamp ∧
    (paced 2 99).dur = some 5 ∧ (paced 2 99).scanMoves 5 ≤ (paced 2 99).clockMovesWithin 99 ∧
    (paced 2 99).params.exitCheck = .perPass ∧ (paced 2 99).latchPin = some 10 ∧ (paced 2 99).clockPin = some 11 ∧
    (paced 2 99).dataPin = some 12 ∧ (paced 2 99).polarity = some .commonCathode ∧
    0 < (paced 2 99).n * (paced 2 99).params.povDelayMs := by
  rw [paced_fair]
  exact ⟨paced_inv _ _, paced_noReset _ _, rfl, rfl, by decide, rfl, rfl, rfl, rfl, rfl, by decide⟩

/-- A check at the last answer below the duration. -/
theorem witness_ScanGoesOnUntilTheDurationRunsOut :
    let s := moved [4] (scan .rCheck 0 .high)
    s.Inv ∧ s.nextInput.reset = false ∧ s.seq.phase.scanning = true ∧ s.t0 = some 0 ∧ s.dur = some 5 ∧
      ∃ t, step s = .next t ∧ t.timeMs - 0 < (5#32).toNat := by
  have hi : (scan .rCheck 0 .high).Inv := by apply scan_inv <;> decide
  exact ⟨inv_moved _ _ hi, rfl, rfl, rfl, rfl, _, rfl, by decide⟩

theorem witness_CompletionDiscardsTheFrame : (scan .done 0 .high).seq.phase = .done ∧
    (scan .done 0 .high).nextInput.reset = false := ⟨rfl, rfl⟩

/-- Both lines Low for the edges, and each change that is no edge: from High, from undriven, to Low. -/
theorem witness_ChainReactsToRisingEdges : cc4.clock = .low ∧ cc4.latch = .low ∧ base.clock = .undriven ∧
    base.latch = .undriven ∧ (scan .rHold 0 .high).latch = .high ∧ Level.low ≠ Level.high := by decide

/-- The chain still unknown at its outputs while its stages are known: the latch-high shows. -/
theorem witness_OutputsChangeOnlyAtLatchHigh :
    let s := { scan .rLatchHi 0 .low with sr := stagesOf 0xFFFF#16 }
    ∃ t, step s = .next t ∧ t.out ≠ s.out := by
  refine ⟨_, rfl, ?_⟩; decide

/-- A latch line that falls, and a byte's bit on `DATA`. -/
theorem witness_LinesChangeOnlyWhereDriven :
    (∃ t, step (scan .rLatchLo 0 .high) = .next t ∧ t.latch ≠ (scan .rLatchLo 0 .high).latch) ∧
    ∃ t, step (scan .rShiftSel 1 .low) = .next t ∧ t.data ≠ (scan .rShiftSel 1 .low).data := by
  refine ⟨⟨_, rfl, ?_⟩, _, rfl, ?_⟩ <;> decide

/-- A shifting phase before its first bit and after its last, and a phase that does not shift. -/
theorem witness_EachPulseShiftsOnePlace : (scan .rShiftSeg 0 .low).Inv ∧ (scan .rHold 0 .high).Inv ∧
    (∃ t, step (scan .rShiftSeg 0 .low) = .next t) ∧ (scan .rShiftSeg 0 .low).seq.phase.shifting = true ∧
    (scan .rShiftSeg 0 .low).seq.bitcnt.val < 8 ∧ (∃ t, step (scan .rHold 0 .high) = .next t) ∧
    (scan .rHold 0 .high).seq.phase.shifting = false := by
  refine ⟨?_, ?_, ⟨_, rfl⟩, rfl, by decide, ⟨_, rfl⟩, rfl⟩ <;> apply scan_inv <;> decide

theorem witness_SelectByteHasOneActiveBit : (defaultParams 2).Wf := by constructor <;> decide

theorem witness_ResetAbandonsWhateverRuns :
    ({ scan .rShiftSeg 0 .low with platform := [⟨3, true⟩] }).nextInput.reset = true := rfl

theorem witness_step_goes_on : (∃ t, step cc4 = .next t) ∧ cc4.configured = true ∧
    cc4.nextInput.reset = false ∧ ∃ t, step (scan .rHold 0 .high) = .next t := ⟨⟨_, rfl⟩, rfl, rfl, _, rfl⟩

theorem witness_EveryStepKeepsTheInvariant : (scan .rHold 3 .high).Inv ∧
    ∃ t, step (scan .rHold 3 .high) = .next t := by
  refine ⟨?_, _, rfl⟩; apply scan_inv <;> decide

end Sys2Proof.Tests
end

namespace Sys2Proof.Machine

/-! ### What a step leaves in single fields -/

/-- No command's micro-step moves `TIME_MS` (R21). -/
theorem exec_timeMs {i : Instr} {s t : State} (h : exec i s = .next t) : t.timeMs = s.timeMs := by
  rcases exec_cases h with rfl | ⟨-, -, _, _, _, _, _, -, -, -, rfl⟩ | ⟨-, -, -, rfl⟩ | ⟨-, -, _, _, -, -, rfl⟩ |
    ⟨-, -, -, _, _, -, rfl⟩
  · rfl
  · simp [configure_eq]
  all_goals simp

/-- Every step leaves `TIME_MS` where the clock agent has moved it (R21). -/
theorem step_timeMs {s t : State} (h : step s = .next t) : t.timeMs = s.timeMs + s.nextInput.advanceMs := by
  rcases step_cases h with ⟨-, rfl⟩ | ⟨-, -, rfl⟩ | ⟨-, -, -, _, _, _, -, -, h⟩ | ⟨-, -, _, -, h⟩ | ⟨-, -, -, rfl⟩
  · rfl
  · rfl
  · exact exec_timeMs h
  · exact exec_timeMs h
  · exact rowOf_timeMs _ _

theorem State.SameConfiguration.refl (s : State) : s.SameConfiguration s := ⟨rfl, rfl, rfl, rfl, rfl, rfl⟩

/-- Once the block is configured no command writes a configuration register: a second CONFIG is not taken (R13). -/
theorem exec_sameConfiguration {i : Instr} {s t : State} (hc : s.configured = true) (h : exec i s = .next t) :
    s.SameConfiguration t := by
  rcases exec_cases h with rfl | ⟨-, hn, -⟩ | ⟨-, -, -, rfl⟩ | ⟨-, -, _, _, -, -, rfl⟩ | ⟨-, -, -, _, _, -, rfl⟩
  · exact .refl _
  · simp [hc] at hn
  all_goals simp [State.SameConfiguration]

/-- No row of the sequencer writes a configuration register. -/
theorem rowOf_sameConfiguration (ph : Phase) (s : State) : s.SameConfiguration (rowOf ph s) := by
  simp [State.SameConfiguration]

/-- What a command's micro-step does to the lines: nothing, or CONFIG drives all three Low (R105). -/
theorem exec_lines {i : Instr} {s t : State} (h : exec i s = .next t) :
    (t.latch = s.latch ∧ t.clock = s.clock ∧ t.data = s.data) ∨
    (s.configured = false ∧ t.configured = true ∧ t.latch = .low ∧ t.clock = .low ∧ t.data = .low) := by
  rcases exec_cases h with rfl | ⟨-, hn, _, _, _, _, _, -, -, -, rfl⟩ | ⟨-, -, -, rfl⟩ | ⟨-, -, _, _, -, -, rfl⟩ |
    ⟨-, -, -, _, _, -, rfl⟩
  · exact .inl ⟨rfl, rfl, rfl⟩
  · exact .inr (by simp [configure_eq, hn])
  all_goals exact .inl (by simp)

/-- Only the rows that shift a byte drive `CLOCK` and `DATA` (R86, R99). -/
theorem rowOf_clock_data {ph : Phase} (s : State) (h : ph.shifting = false) :
    (rowOf ph s).clock = s.clock ∧ (rowOf ph s).data = s.data := by
  cases ph
  case rShiftSel | rShiftSeg | bShift1 | bShift2 => simp [Phase.shifting] at h
  case rHold => simp [rowOf, rowHold_eq]
  all_goals simp [rowOf, rowStamp, rowCheck, rowLatchLo, rowLatchHi, rowBlankLatchLo, rowBlankLatchHi, rowRespond,
    rowDone, State.setLevel]

/-- What a step without `RESET` does to the lines: a command's micro-step or a row of the sequencer. -/
theorem step_lines {s t : State} (hr : s.nextInput.reset = false) (h : step s = .next t) :
    (t.latch = s.latch ∧ t.clock = s.clock ∧ t.data = s.data) ∨
    (s.configured = false ∧ t.configured = true ∧ t.latch = .low ∧ t.clock = .low ∧ t.data = .low) ∨
    t = rowOf s.seq.phase s.beginStep := by
  rcases step_cases h with ⟨h1, -⟩ | ⟨-, -, rfl⟩ | ⟨-, -, -, _, _, _, -, -, h⟩ | ⟨-, -, _, -, h⟩ | ⟨-, -, -, rfl⟩
  · simp [hr] at h1
  · exact .inl ⟨rfl, rfl, rfl⟩
  · exact (exec_lines h).imp_right .inl
  · exact (exec_lines h).imp_right .inl
  · exact .inr (.inr rfl)

/-- Settles O34: the completion is the row `DONE` after the clock agent's move. -/
theorem completionDiscardsTheFrame : Obligations.CompletionDiscardsTheFrame := by
  intro s hp hr
  refine ⟨_, step_row hp hr, ?_⟩
  simp [rowOf, rowDone, State.SameConfiguration]

/-- Settles O42: a step adds the clock agent's move, a natural number, and nothing else. -/
theorem timeNeverDecreases : Obligations.TimeNeverDecreases := by
  intro s t h
  have ht := step_timeMs h
  exact ⟨ht, by omega⟩

/-- Settles O43: of the steps a configured block can take, a command's micro-step and a row of the sequencer both
leave the registers alone. -/
theorem configurationIsImmutable : Obligations.ConfigurationIsImmutable := by
  intro s t hc hr h
  rcases step_cases h with ⟨h1, -⟩ | ⟨-, -, rfl⟩ | ⟨-, -, -, _, _, _, -, -, h⟩ | ⟨-, -, _, -, h⟩ | ⟨-, -, -, rfl⟩
  · simp [hr] at h1
  · exact .refl s
  · exact exec_sameConfiguration (s := s.taken _) hc h
  · exact exec_sameConfiguration (s := s.beginStep) hc h
  · exact rowOf_sameConfiguration _ s.beginStep

/-- Settles O36: a command changes the lines by configuring the block only, and the rows drive each line in its own
phases only. -/
theorem linesChangeOnlyWhereDriven : Obligations.LinesChangeOnlyWhereDriven := by
  intro s t hr h
  rcases step_lines hr h with ⟨hl, hk, hd⟩ | ⟨hs, ht, hl, hk, hd⟩ | rfl
  · simp [hl, hk, hd]
  · simp [hs, ht, hl, hk, hd]
  · constructor
    · intro hne
      rw [rowOf_latch] at hne
      split at hne
      · tauto
      · split at hne
        · tauto
        · exact absurd rfl hne
    · intro hne
      left
      by_contra hns
      have hsame := rowOf_clock_data s.beginStep (by simpa using hns)
      simp [hsame] at hne

/-! ### What a configured block keeps in every phase -/

/-- The clauses of the invariant that hold of a configured block whatever its phase: its registers (R12, R13), its
driven lines (R105, R137) and `POS` (R18). -/
structure State.Ready (s : State) : Prop where
  configured    : s.configured = true
  registers     : s.registersValid = true
  clock_low     : s.clock = .low
  latch_driven  : s.latch ≠ .undriven
  data_driven   : s.data ≠ .undriven
  pos_lt        : s.seq.pos.val < s.n

theorem State.Inv.ready {s : State} (hi : s.Inv) (hc : s.configured = true) : s.Ready := by
  obtain ⟨hk, hl, hd⟩ := hi.lines_driven hc
  exact ⟨hc, hi.registers_valid hc, hk, hl, hd, hi.pos_lt hc⟩

theorem State.SameConfiguration.registersValid {s t : State} (h : s.SameConfiguration t) :
    t.registersValid = s.registersValid := by
  obtain ⟨hl, hk, hd, hp, hn, -⟩ := h
  simp only [State.registersValid, hl, hk, hd, hp, hn]

/-- `N` is what the configuration says, once there is one. -/
theorem State.SameConfiguration.n {s t : State} (h : s.SameConfiguration t) (hi : s.Inv)
    (hc : s.configured = true) : t.n = s.n := by
  obtain ⟨-, -, -, -, hn, -⟩ := h
  obtain ⟨n, hs, -, -⟩ := hi.digitCount hc
  rw [State.n_of_digitCount hs, State.n_of_digitCount (hn.trans hs)]

/-- The invariant of a block at work outside the scan: a command is taken, encoded or about to complete. -/
theorem State.Ready.inv_of_pending {t : State} (hr : t.Ready) (hb : t.busy = true) (hbit : t.seq.bitcnt = 0)
    (hsleep : t.sleepStart = none)
    (hph : t.seq.phase = .encode ∨ t.seq.phase = .rStamp ∨ t.seq.phase = .respond ∨ t.seq.phase = .done)
    (hlat : t.latched.isSome = true ↔ t.seq.phase = .encode)
    (henc : ∀ i, t.latched = some i → encodesInContract i = true)
    (hlive : t.seq.phase = .rStamp ∨ t.seq.phase = .respond → ∀ k : Fin 8, k.val < t.n → (t.f.get k).isSome = true)
    (hbeyond : ∀ k : Fin 8, t.n ≤ k.val → t.f.get k = none)
    (hdead : t.seq.phase = .encode → t.f = Vector.replicate 8 none ∧ t.t0 = none ∧ t.dur = none)
    (hdur : t.seq.phase = .rStamp → t.dur.isSome = true) : t.Inv := by
  obtain ⟨hidle, hhold, hload, hscan, hblank⟩ : t.seq.phase ≠ .idle ∧ t.seq.phase ≠ .rHold ∧
      t.seq.phase.loading = false ∧ t.seq.phase.scanning = false ∧ t.seq.phase.blanking = false := by
    rcases hph with h | h | h | h <;> simp [h, Phase.loading, Phase.scanning, Phase.blanking]
  obtain ⟨hc, hreg, hk, hl, hd, hpos⟩ := hr
  exact {
    registers_valid := fun _ => hreg
    unconfigured_registers := by simp [hc]
    unconfigured_lines := by simp [hc]
    unconfigured_idle := by simp [hc]
    busy_iff := by simp [hb, hidle]
    latched_iff := hlat
    latched_encodes := henc
    bitcnt_zero := fun _ => hbit
    lines_driven := fun _ => ⟨hk, hl, hd⟩
    latch_low := by simp [hload]
    latch_high := by simp [hhold]
    sleeping_iff := by simp [hsleep, hhold]
    sleep_past := by simp [hsleep]
    blanking_late := by simp [hblank]
    pos_lt := fun _ => hpos
    frame_live := by simpa [hscan] using hlive
    frame_beyond := fun _ => hbeyond
    dead_when_idle := by simpa [hidle] using hdead
    dur_live := by simpa [hscan] using hdur
    stamp_live := by simp [hscan] }

/-! ### Reset and the commands -/

/-- The state `RESET` leaves meets the invariant, whatever was running (R135). -/
theorem assertReset_inv (s : State) : s.assertReset.Inv := by
  constructor <;> simp [Phase.loading, Phase.scanning, Phase.blanking]

/-- CONFIG inside the contract, taken by a waiting block. -/
theorem configure_inv {s : State} {latch clock data digits : Byte} (pol : Polarity) (hi : s.Inv)
    (hp : s.seq.phase = .idle) (hn : s.configured = false) (hd : digitsInContract digits = true)
    (hpins : pinsDistinct latch clock data = true) : (s.configure latch clock data pol digits).Inv := by
  obtain ⟨hf, -, -⟩ := hi.dead_when_idle (.inl hp)
  have hseq := hi.unconfigured_idle hn
  have hsleep : s.sleepStart = none := by simpa [hp] using hi.sleeping_iff
  have hlat : s.latched = none := by simpa [hp] using hi.latched_iff
  obtain ⟨h1, h8⟩ : 1 ≤ digits.toNat ∧ digits.toNat ≤ 8 := by simpa [digitsInContract] using hd
  have hdc : (digitCountOperand digits).toNat = digits.toNat := by
    simp [digitCountOperand]; omega
  rw [configure_eq]
  refine State.Ready.inv_of_pending ⟨rfl, ?_, rfl, by simp, by simp, ?_⟩ rfl rfl hsleep (by simp) ?_ ?_ ?_ ?_ ?_ ?_
  · simp [State.registersValid, hpins, hdc, h1, h8]
  · simp [State.n, hseq, hdc]; omega
  · simp [hlat]
  · simp [hlat]
  · simp
  · simp [hf, Vector.get_eq_getElem]
  · simp
  · simp

/-- A block that keeps its configuration, lines and `POS` stays ready. -/
theorem State.Ready.of_same {s t : State} (hr : s.Ready) (hs : s.SameConfiguration t) (hn : t.n = s.n)
    (hk : t.clock = s.clock) (hl : t.latch = s.latch) (hd : t.data = s.data) (hp : t.seq.pos = s.seq.pos) :
    t.Ready := by
  have hreg := hs.registersValid
  obtain ⟨-, -, -, -, -, hc⟩ := hs
  constructor
  · exact hc.trans hr.configured
  · exact hreg.trans hr.registers
  · exact hk.trans hr.clock_low
  · rw [hl]; exact hr.latch_driven
  · rw [hd]; exact hr.data_driven
  · rw [hp, hn]; exact hr.pos_lt

/-- A frame of N bytes written into an empty buffer fills `F[0..N-1]` and nothing beyond (R15, R16). -/
theorem writeFrame_empty {g : List Byte} {n : ℕ} (hl : g.length = n) :
    (∀ k : Fin 8, k.val < n → ((writeFrame (Vector.replicate 8 none) g).get k).isSome = true) ∧
    ∀ k : Fin 8, n ≤ k.val → (writeFrame (Vector.replicate 8 none) g).get k = none := by
  constructor
  · intro k hk
    rw [writeFrame_get, dif_pos (hl ▸ hk)]; rfl
  · intro k hk
    rw [writeFrame_get, dif_neg (by omega)]; simp [Vector.get_eq_getElem]

/-- A waiting block latches a command that encodes. -/
theorem accept_inv {s : State} {i : Instr} (hi : s.Inv) (hp : s.seq.phase = .idle) (hc : s.configured = true)
    (he : encodesInContract i = true) : (s.accept i).Inv := by
  have hdead := hi.dead_when_idle (.inl hp)
  have hsleep : s.sleepStart = none := by simpa [hp] using hi.sleeping_iff
  have hready : (s.accept i).Ready := (hi.ready hc).of_same (.refl s) rfl rfl rfl rfl rfl
  refine hready.inv_of_pending rfl rfl hsleep (by simp) (by simp) ?_ (by simp) ?_ (fun _ => hdead) (by simp)
  · rintro _ ⟨rfl⟩; exact he
  · intro k _
    simp [hdead.1, Vector.get_eq_getElem]

/-- A waiting block takes a RENDER of N bytes. -/
theorem startRender_inv {s : State} {frame : List Byte} (dur : Word) (hi : s.Inv) (hp : s.seq.phase = .idle)
    (hc : s.configured = true) (hlen : frame.length = s.n) : (s.startRender frame dur).Inv := by
  obtain ⟨hf, -, -⟩ := hi.dead_when_idle (.inl hp)
  have hsleep : s.sleepStart = none := by simpa [hp] using hi.sleeping_iff
  have hlat : s.latched = none := by simpa [hp] using hi.latched_iff
  have hready : (s.startRender frame dur).Ready := (hi.ready hc).of_same (.refl s) rfl rfl rfl rfl rfl
  obtain ⟨hlive, hbeyond⟩ := writeFrame_empty hlen
  rw [← hf] at hlive hbeyond
  exact hready.inv_of_pending rfl rfl hsleep (by simp) (by simp [hlat]) (by simp [hlat]) (fun _ => hlive) hbeyond
    (by simp) (fun _ => rfl)

/-- The encode step writes N bytes and consumes the operands. -/
theorem finishEncode_inv {s : State} {frame : List Byte} (dur : Option Word) (hi : s.Inv)
    (hp : s.seq.phase = .encode) (hlen : frame.length = s.n) : (s.finishEncode frame dur).Inv := by
  have hc := hi.configured_of_busy (by simp [hp])
  obtain ⟨hf, -, -⟩ := hi.dead_when_idle (.inr hp)
  have hsleep : s.sleepStart = none := by simpa [hp] using hi.sleeping_iff
  have hb : s.busy = true := by simpa [hp] using hi.busy_iff
  have hsame : s.SameConfiguration (s.finishEncode frame dur) := by simp [State.SameConfiguration]
  have hn := hsame.n hi hc
  have hready : (s.finishEncode frame dur).Ready :=
    (hi.ready hc).of_same hsame hn (by simp) (by simp) (by simp) (by simp)
  obtain ⟨hlive, hbeyond⟩ := writeFrame_empty hlen
  rw [← hf, ← hn] at hlive hbeyond
  refine hready.inv_of_pending (by simpa using hb) (by simp) (by simpa using hsleep) ?_ ?_ (by simp) ?_ ?_ ?_ ?_
  · cases dur <;> simp
  · cases dur <;> simp
  · intro _; simpa using hlive
  · simpa using hbeyond
  · cases dur <;> simp
  · cases dur <;> simp

/-- Every command's own micro-step keeps the invariant. -/
theorem exec_inv {i : Instr} {s t : State} (hi : s.Inv) (h : exec i s = .next t) : t.Inv := by
  rcases exec_cases h with rfl | ⟨ha, hn, _, _, _, pol, _, -, hd, hpins, rfl⟩ | ⟨ha, hc, he, rfl⟩ |
    ⟨ha, hc, _, dur, -, hlen, rfl⟩ | ⟨hp, -, -, _, dur, hlen, rfl⟩
  · exact hi
  · exact configure_inv pol hi ((accepting_iff s).1 ha).1 hn hd hpins
  · exact accept_inv hi ((accepting_iff s).1 ha).1 hc he
  · exact startRender_inv dur hi ((accepting_iff s).1 ha).1 hc hlen
  · exact finishEncode_inv dur hi hp hlen

/-! ### The rows of the sequencer -/

/-- A row keeps the clauses of a configured block. -/
theorem rowOf_ready {s : State} (hi : s.Inv) (hp : s.seq.phase ≠ .idle) : (rowOf s.seq.phase s).Ready := by
  have hc := hi.configured_of_busy hp
  obtain ⟨h1, h8⟩ := hi.n_range hc
  obtain ⟨-, hreg, hk, hl, hd, hpos⟩ := hi.ready hc
  have hsame := rowOf_sameConfiguration s.seq.phase s
  refine ⟨by simpa using hc, hsame.registersValid.trans hreg, rowOf_clock _ s hk, ?_, rowOf_data _ s hd, ?_⟩
  · rw [rowOf_latch]
    split
    · simp
    · split
      · simp
      · exact hl
  · rw [hsame.n hi hc, rowOf_seq s fun _ => ⟨h1, h8⟩]
    exact specNextSeq_pos _ _ _ _ h1 h8 hpos

/-- A row that enters or stays in the scan leaves it with its stamp, which lies in the past (R17, R21). -/
theorem rowOf_stamp {s : State} (hi : s.Inv) (hp : s.seq.phase = .rStamp ∨ s.seq.phase.scanning = true) :
    (rowOf s.seq.phase s).t0.isSome = true ∧ (rowOf s.seq.phase s).stampValue ≤ s.timeMs := by
  rcases hp with hp | hp
  · simp [State.stampValue, rowOf_t0, hp]
  · obtain ⟨ht, hle⟩ := hi.stamp_live hp
    have hne : s.seq.phase ≠ .rStamp ∧ s.seq.phase ≠ .done := by
      constructor <;> (intro h; simp [h, Phase.scanning] at hp)
    simpa [State.stampValue, rowOf_t0, hne] using ⟨ht, hle⟩

/-- The blanking is entered only from the check that has found the duration run out, and goes on being late (R92). -/
theorem rowOf_late {s : State} (hi : s.Inv)
    (hp : (s.seq.phase = .rCheck ∧ s.durMs ≤ s.elapsedMs) ∨ s.seq.phase.blanking = true) :
    (rowOf s.seq.phase s).durMs ≤ (rowOf s.seq.phase s).timeMs - (rowOf s.seq.phase s).stampValue := by
  have hne : s.seq.phase ≠ .rStamp ∧ s.seq.phase ≠ .done := by
    constructor <;> (intro h; simp [h, Phase.blanking] at hp)
  have hlate : s.durMs ≤ s.timeMs - s.stampValue := by
    rcases hp with ⟨-, h⟩ | h
    · exact h
    · exact hi.blanking_late h
  simpa [State.durMs, State.stampValue, rowOf_dur, rowOf_t0, hne] using hlate

/-- A row that enters or stays in a load leaves `LATCH` Low (R90). -/
theorem rowOf_latch_low {s : State} (hi : s.Inv)
    (hp : s.seq.phase = .rLatchLo ∨ s.seq.phase = .bLatchLo ∨ s.seq.phase.shifting = true) :
    (rowOf s.seq.phase s).latch = .low := by
  rw [rowOf_latch]
  rcases hp with hp | hp | hp
  · simp [hp]
  · simp [hp]
  · have hload : s.seq.phase.loading = true := by
      revert hp; cases s.seq.phase <;> simp [Phase.shifting, Phase.loading]
    have hne : s.seq.phase ≠ .rLatchHi ∧ s.seq.phase ≠ .bLatchHi := by
      constructor <;> (intro h; simp [h, Phase.shifting] at hp)
    simp [hne, hi.latch_low hload]

/-- A row leaves a sleep in progress exactly where it raises `LATCH` for a load or the hold goes on (R89, R90). -/
theorem rowOf_sleeping_iff {s : State} (hi : s.Inv) : (rowOf s.seq.phase s).sleepStart.isSome = true ↔
    s.seq.phase = .rLatchHi ∨ (s.seq.phase = .rHold ∧ s.sleepOver = false) := by
  rw [rowOf_sleepStart]
  by_cases hl : s.seq.phase = .rLatchHi
  · simp [hl]
  · by_cases hh : s.seq.phase = .rHold
    · have hs := hi.sleeping_iff.2 hh
      cases ho : s.sleepOver <;> simp [hh, hs]
    · have hs : s.sleepStart = none := by simpa [hh] using hi.sleeping_iff
      simp [hl, hh, hs]

/-- The sleep a row leaves began at a time that lies in the past (R21, R89). -/
theorem rowOf_sleep_past {s : State} (hi : s.Inv) (start : ℕ) (h : (rowOf s.seq.phase s).sleepStart = some start) :
    start ≤ s.timeMs := by
  rw [rowOf_sleepStart] at h
  split at h
  · simp at h; omega
  · split at h
    · simp at h
    · exact hi.sleep_past start h

/-- Every row keeps the invariant: the table says where each phase comes from (`specNextSeq_facts`), and the fields
follow from what the invariant says there. -/
theorem rowOf_inv {s : State} (hi : s.Inv) (hidle : s.seq.phase ≠ .idle) (henc : s.seq.phase ≠ .encode) :
    (rowOf s.seq.phase s).Inv := by
  have hc := hi.configured_of_busy hidle
  obtain ⟨hc', hreg, hk, hl, hd, hpos⟩ := rowOf_ready hi hidle
  have hn := (rowOf_sameConfiguration s.seq.phase s).n hi hc
  have hseq := rowOf_seq s fun _ => hi.n_range hc
  obtain ⟨f_idle, f_enc, f_bit, f_load, f_hold, f_scan, f_stamp, f_resp, f_blank⟩ :=
    specNextSeq_facts (decide (s.elapsedMs < s.durMs)) s.sleepOver s.n s.params.exitCheck s.seq hidle henc
      hi.bitcnt_zero
  rw [← hseq] at f_idle f_enc f_bit f_load f_hold f_scan f_stamp f_resp f_blank
  have in_scan {ph : Phase} (h : ph = .rStamp ∨ ph.scanning = true) : ph ≠ .done := by
    rintro rfl; simp [Phase.scanning] at h
  exact {
    registers_valid := fun _ => hreg
    unconfigured_registers := by simp [hc]
    unconfigured_lines := by simp [hc]
    unconfigured_idle := by simp [hc]
    busy_iff := by
      have hb := hi.busy_iff.2 hidle
      rw [rowOf_busy, ne_eq, f_idle]
      by_cases hdone : s.seq.phase = .done <;> simp [hdone, hb]
    latched_iff := by simpa [f_enc] using mt hi.latched_iff.1 henc
    latched_encodes := by simpa using hi.latched_encodes
    bitcnt_zero := f_bit
    lines_driven := fun _ => ⟨hk, hl, hd⟩
    latch_low := fun h => rowOf_latch_low hi (f_load h)
    latch_high := by
      intro h
      rw [rowOf_latch]
      rcases f_hold.1 h with hp | ⟨hp, -⟩
      · simp [hp]
      · simp [hp, hi.latch_high hp]
    sleeping_iff := by rw [f_hold]; exact rowOf_sleeping_iff hi
    sleep_past := by rw [rowOf_timeMs]; exact rowOf_sleep_past hi
    blanking_late := by
      intro h
      exact rowOf_late hi (by simpa using f_blank h)
    pos_lt := fun _ => hpos
    frame_live := by
      intro h k hk
      have hs := f_scan ((h.resolve_left f_stamp).resolve_right f_resp)
      rw [rowOf_f, if_neg (in_scan hs)]
      exact hi.frame_live (hs.imp_right .inl) k (hn ▸ hk)
    frame_beyond := by
      intro _ k hk
      rw [rowOf_f]
      split
      · simp [Vector.get_eq_getElem]
      · exact hi.frame_beyond hc k (hn ▸ hk)
    dead_when_idle := by
      intro h
      have hdone := f_idle.1 (h.resolve_right f_enc)
      simp [rowOf_f, rowOf_t0, rowOf_dur, hdone]
    dur_live := by
      intro h
      have hs := f_scan (h.resolve_left f_stamp)
      rw [rowOf_dur, if_neg (in_scan hs)]
      exact hi.dur_live hs
    stamp_live := by
      intro h
      simpa using rowOf_stamp hi (f_scan h) }

/-- Settles O46: each kind of step keeps the invariant, reset, the clock agent's move alone, a command's micro-step and
a row of the sequencer. -/
theorem everyStepKeepsTheInvariant : Obligations.EveryStepKeepsTheInvariant := by
  intro s t hi h
  rcases step_cases h with ⟨-, rfl⟩ | ⟨-, -, rfl⟩ | ⟨-, -, -, _, rest, _, -, -, h⟩ | ⟨-, -, _, -, h⟩ |
    ⟨-, hidle, henc, rfl⟩
  · exact assertReset_inv _
  · exact hi.beginStep (.inl rfl)
  · exact exec_inv (hi.beginStep (.inr ⟨rest, rfl⟩)) h
  · exact exec_inv (hi.beginStep (.inl rfl)) h
  · exact rowOf_inv (s := s.beginStep) (hi.beginStep (.inl rfl)) hidle henc

end Sys2Proof.Machine

namespace Sys2Proof

/-- The constraints on the tables do not ask for a hold time (R8). -/
theorem Params.Wf.with_povDelayMs {p : Params} (h : p.Wf) (d : ℕ) : Params.Wf { p with povDelayMs := d } := by
  obtain ⟨h1, h2, h3, h4, h5⟩ := h
  exact ⟨h1, h2, h3, h4, h5⟩

/-- The default tables meet the constraints of R8 and R35, whatever the hold time. -/
theorem defaultParams_wf (d : ℕ) : (defaultParams d).Wf := by
  have h0 : (defaultParams 0).Wf := by constructor <;> decide
  exact h0.with_povDelayMs d

/-- R39: `SEL[i] = 1 << i` in the default table. -/
theorem selEntry_defaultParams (d : ℕ) (i : Fin 8) : selEntry (defaultParams d) i = 1#8 <<< i.val := by
  have h0 : ∀ i, selEntry (defaultParams 0) i = 1#8 <<< i.val := by decide
  exact h0 i

/-- Settles O40: the bytes are read off the tables, which are the same for every hold time. -/
theorem defaultTablesAreTheListedOnes : Obligations.DefaultTablesAreTheListedOnes := by
  intro d
  refine ⟨?digits, ?letters, ?minus, ?blank, ?dp, selEntry_defaultParams d, defaultParams_wf d⟩
  all_goals rfl

end Sys2Proof

namespace Sys2Proof.Machine

/-! ### The tables and the chain -/

/-- No command writes a build-time parameter (R30). -/
theorem exec_params {i : Instr} {s t : State} (h : exec i s = .next t) : t.params = s.params := by
  rcases exec_cases h with rfl | ⟨-, -, _, _, _, _, _, -, -, -, rfl⟩ | ⟨-, -, -, rfl⟩ | ⟨-, -, _, _, -, -, rfl⟩ |
    ⟨-, -, -, _, _, -, rfl⟩
  · rfl
  · simp [configure_eq]
  all_goals simp

/-- No command's micro-step moves the chain: CONFIG drives its lines Low, and no edge to Low is one the chain reacts
to (R100, R101). -/
theorem exec_chain {i : Instr} {s t : State} (h : exec i s = .next t) : t.sr = s.sr ∧ t.out = s.out := by
  rcases exec_cases h with rfl | ⟨-, -, _, _, _, _, _, -, -, -, rfl⟩ | ⟨-, -, -, rfl⟩ | ⟨-, -, _, _, -, -, rfl⟩ |
    ⟨-, -, -, _, _, -, rfl⟩
  · exact ⟨rfl, rfl⟩
  · simp [configure_eq]
  all_goals simp

/-- A step either leaves the chain alone or is a row of the sequencer. -/
theorem step_chain {s t : State} (h : step s = .next t) :
    (t.sr = s.sr ∧ t.out = s.out) ∨ (s.nextInput.reset = false ∧ t = rowOf s.seq.phase s.beginStep) := by
  rcases step_cases h with ⟨-, rfl⟩ | ⟨-, -, rfl⟩ | ⟨-, -, -, _, _, _, -, -, h⟩ | ⟨-, -, _, -, h⟩ | ⟨hr, -, -, rfl⟩
  · exact .inl ⟨rfl, rfl⟩
  · exact .inl ⟨rfl, rfl⟩
  · exact .inl (exec_chain (s := s.taken _) h)
  · exact .inl (exec_chain (s := s.beginStep) h)
  · exact .inr ⟨hr, rfl⟩

/-- Settles O44: neither reset, nor the clock agent, nor a command, nor a row writes a build-time parameter. -/
theorem tablesNeverChange : Obligations.TablesNeverChange := by
  intro s t h
  rcases step_cases h with ⟨-, rfl⟩ | ⟨-, -, rfl⟩ | ⟨-, -, -, _, _, _, -, -, h⟩ | ⟨-, -, _, -, h⟩ | ⟨-, -, -, rfl⟩
  · rfl
  · rfl
  · exact exec_params (s := s.taken _) h
  · exact exec_params (s := s.beginStep) h
  · exact rowOf_params _ _

/-- Settles O37: of all a step can do, only the rows that raise `LATCH` copy the stages to the outputs. -/
theorem outputsChangeOnlyAtLatchHigh : Obligations.OutputsChangeOnlyAtLatchHigh := by
  intro s t h hne
  rcases step_chain h with ⟨-, hout⟩ | ⟨-, rfl⟩
  · exact absurd hout hne
  · rw [rowOf_out] at hne
    split at hne
    case isTrue hrise =>
      obtain ⟨hp, (hlow : s.latch = .low)⟩ := hrise
      exact ⟨hp, by simp [rowOf_out, hp, hlow], by simp [rowOf_latch, hp]⟩
    case isFalse => exact absurd rfl hne

/-- Once configured, the polarity is known (R12). -/
theorem State.Inv.polarity {s : State} (hi : s.Inv) (hc : s.configured = true) : ∃ p, s.polarity = some p := by
  have hreg := hi.registers_valid hc
  unfold State.registersValid at hreg
  split at hreg
  case h_1 hp _ => exact ⟨_, hp⟩
  case h_2 => cases hreg

/-- The clock agent's move changes no byte being shifted: the registers it is read from hold values. -/
theorem State.Inv.shiftingByte_beginStep {s : State} (hi : s.Inv) : s.beginStep.shiftingByte = s.shiftingByte := by
  cases hp : s.seq.phase
  case rShiftSel =>
    obtain ⟨p, hpol⟩ := hi.polarity (hi.configured_of_busy (by simp [hp]))
    simp [State.shiftingByte, State.pol, hp, hpol]
  case rShiftSeg =>
    have hpos := hi.pos_lt (hi.configured_of_busy (by simp [hp]))
    have hlive := hi.frame_live (.inr (.inl (by simp [hp, Phase.scanning]))) s.seq.pos hpos
    obtain ⟨b, hb⟩ := Option.isSome_iff_exists.1 hlive
    simp [State.shiftingByte, State.frameByte, hp, hb]
  all_goals simp [State.shiftingByte, hp]

/-- The phases that shift a byte lie between a latch-low and its latch-high (R90, R94). -/
theorem Phase.loading_of_shifting {ph : Phase} (h : ph.shifting = true) : ph.loading = true := by
  cases ph <;> simp_all [Phase.shifting, Phase.loading]

/-- A shifting row from a Low clock, while the byte is not out, is one pulse of the byte's next bit (R99, R100). -/
theorem rowOf_pulse {s : State} (hs : s.seq.phase.shifting = true) (hb : s.seq.bitcnt.val < 8) (hc : s.clock = .low) :
    let bit := wireBit s.shiftingByte.1 s.shiftingByte.2 s.seq.bitcnt.val
    (rowOf s.seq.phase s).sr = shiftIn bit s.sr ∧ (rowOf s.seq.phase s).data = levelOfBit bit ∧
      (rowOf s.seq.phase s).clock = .low ∧ (rowOf s.seq.phase s).latch = s.latch := by
  obtain ⟨after, hrow⟩ := rowOf_shifting hs
  rw [hrow, shiftStep_bit _ _ _ hb, pulse_eq _ hc]
  exact ⟨rfl, rfl, rfl, rfl⟩

/-- Settles O38: a step in a shifting phase is one pulse of the byte the invariant fixes, and any other step is no
pulse. -/
theorem eachPulseShiftsOnePlace : Obligations.EachPulseShiftsOnePlace := by
  intro s t hi h
  constructor
  · intro hr hs hb
    have hbusy : s.seq.phase ≠ .idle ∧ s.seq.phase ≠ .encode := by
      constructor <;> (intro hp; simp [hp, Phase.shifting] at hs)
    obtain ⟨hclock, -, -⟩ := hi.lines_driven (hi.configured_of_busy hbusy.1)
    obtain rfl : rowOf s.seq.phase s.beginStep = t := by
      simpa [step_row rfl hr hbusy.1 hbusy.2] using h
    have hpulse := rowOf_pulse (s := s.beginStep) hs hb hclock
    rw [hi.shiftingByte_beginStep] at hpulse
    obtain ⟨hsr, hdata, hlow, hlatch⟩ := hpulse
    exact ⟨hsr, hdata, hlow, hlatch.trans (hi.latch_low (Phase.loading_of_shifting hs))⟩
  · intro hno
    rcases step_chain h with ⟨hsr, -⟩ | ⟨hr, rfl⟩
    · exact hsr
    · have hidle : s.seq.phase.shifting = false ∨ 8 ≤ s.seq.bitcnt.val := by simpa [hr] using hno
      exact rowOf_sr _ s.beginStep hidle

end Sys2Proof.Machine

namespace Sys2Proof

/-! ### The packet codec -/

/-- The decoder of a packet whose opcode byte is one of the eight is its format's. -/
@[simp] theorem decode_opcodeByte (o : Opcode) (body : List Byte) :
    decode (opcodeByte o :: body) = decodeOperands o body := by
  simp [decode]

/-- A packet with a meaning begins with one of the eight opcode bytes. -/
theorem decode_ok {p : Packet} {i : Instr} (h : decode p = .ok i) :
    ∃ o body, p = opcodeByte o :: body ∧ decodeOperands o body = .ok i := by
  unfold decode at h
  split at h
  · cases h
  next op body =>
    split at h
    next o ho => exact ⟨o, body, by rw [opcodeByte_of_opcodeOf ho], h⟩
    · cases h

/-- The bytes a `LEN` byte cuts off in front of a four-byte field, and that field, are all the bytes there are (R53). -/
theorem lenField_of_lastWord_drop {len : Byte} {rest : List Byte} {dur : Word}
    (h : lastWord? (rest.drop len.toNat) = some dur) :
    lenByte (rest.take len.toNat) :: (rest.take len.toNat ++ bytes32 dur) = len :: rest ∧
      lengthFitsLen (rest.take len.toNat) = true := by
  have hdrop := eq_bytes32_of_lastWord h
  have hrest : rest.length - len.toNat = 4 := by simpa using congrArg List.length hdrop
  have hlen : (rest.take len.toNat).length = len.toNat := by rw [List.length_take]; omega
  exact ⟨by rw [lenByte_eq hlen, ← hdrop, List.take_append_drop], lengthFitsLen_of_byte hlen⟩

/-- Settles O2: each format's decoder reads back the fields its encoder laid out. -/
theorem decodeInvertsEncode : Obligations.DecodeInvertsEncode := by
  intro i h
  cases i with
  | config latch clock data pol digits => simp [encode, decodeOperands, decodeC]
  | enci value => simp [encode, decodeOperands, decodeI, bytes32, word32_bytes]
  | encd value places => simp [encode, decodeOperands, decodeD, bytes32, word32_bytes]
  | enct text => simp [encode, decodeOperands, decodeT, lenByte_toNat h]
  | render frame dur => simp [encode, decodeOperands, decodeR, lenByte_toNat h]
  | printi value dur => simp [encode, decodeOperands, decodeIP, bytes32, word32_bytes]
  | printd value places dur => simp [encode, decodeOperands, decodeDP, bytes32, word32_bytes]
  | printt text dur => simp [encode, decodeOperands, decodeTP, lenByte_toNat h]

/-- In each format the operands that decode are the ones the encoder lays out, every byte of them. -/
theorem encode_of_decodeOperands {o : Opcode} {body : List Byte} {i : Instr} (h : decodeOperands o body = .ok i) :
    encode i = opcodeByte o :: body ∧ i.encodable = true := by
  cases o
  case config =>
    simp only [decodeOperands, decodeC] at h
    split at h
    · split at h <;> cases h
      next hpol => exact ⟨by simp [encode, polarityByte_of_polarityOf hpol], rfl⟩
    · cases h
  case enct =>
    simp only [decodeOperands, decodeT] at h
    split at h
    · split at h <;> cases h
      next hlen => exact ⟨by simp [encode, lenByte_eq hlen], lengthFitsLen_of_byte hlen⟩
    · cases h
  case enci | encd | printi | printd =>
    simp only [decodeOperands, decodeI, decodeD, decodeIP, decodeDP] at h
    split at h <;> cases h
    exact ⟨by simp [encode, bytes32_word32], rfl⟩
  case render | printt =>
    simp only [decodeOperands, decodeR, decodeTP] at h
    split at h
    · split at h <;> cases h
      next hdur =>
        obtain ⟨hbytes, hfits⟩ := lenField_of_lastWord_drop hdur
        exact ⟨congrArg (_ :: ·) hbytes, hfits⟩
    · cases h

/-- Settles O3: the opcode byte is the format's, and the operands are the format's. -/
theorem encodeInvertsDecode : Obligations.EncodeInvertsDecode := by
  intro p i h
  obtain ⟨o, body, rfl, hbody⟩ := decode_ok h
  exact encode_of_decodeOperands hbody

/-- Settles O1: twelve closed packets, decoded. -/
theorem workedPacketsDecode : Obligations.WorkedPacketsDecode := by
  unfold Obligations.WorkedPacketsDecode
  decide

end Sys2Proof

namespace Sys2Proof

/-! ### Packets without a meaning -/

/-- The length a format gives a packet (R55) is the table's (R52), and an opcode byte has one exactly when it is one
of the eight (R50). -/
theorem formatLength_eq (op len : Byte) :
    formatLength op.toNat len.toNat = (opcodeOf op).map fun o => packetLength o len := by
  cases h : opcodeOf op with
  | some o =>
    rw [← opcodeByte_of_opcodeOf h]
    cases o <;> rfl
  | none =>
    have hreserved : ∀ op : Byte, opcodeOf op = none →
        op.toNat ∉ [0x01, 0x10, 0x11, 0x12, 0x20, 0x30, 0x31, 0x32] := by decide
    have hop := hreserved op h
    unfold formatLength
    split <;> simp_all

/-- R52, R55: the length told by the first two bytes of a command's packet is the packet's. -/
theorem formatLength_encode (i : Instr) : Laws.EncodedLength.Statement i :=
  match i with
  | .config l c d p n => Laws.EncodedLength.config l c d p n
  | .enci v => Laws.EncodedLength.enci v
  | .encd v p => Laws.EncodedLength.encd v p
  | .enct t => Laws.EncodedLength.enct t
  | .render f d => Laws.EncodedLength.render f d
  | .printi v d => Laws.EncodedLength.printi v d
  | .printd v p d => Laws.EncodedLength.printd v p d
  | .printt t d => Laws.EncodedLength.printt t d

/-- A packet with a meaning has the length its first two bytes tell (R55). -/
theorem formatLength_of_decode {op : Byte} {body : List Byte} {i : Instr} (h : decode (op :: body) = .ok i) :
    formatLength op.toNat (body.headD 0).toNat = some (body.length + 1) := by
  obtain ⟨henc, hcan⟩ := encodeInvertsDecode _ _ h
  have hlen := formatLength_encode i hcan
  rw [henc] at hlen
  cases body <;> exact hlen

/-- Operands are rejected for their length, but for a CONFIG of the right length with a reserved `POL`. -/
theorem decodeOperands_error {o : Opcode} {body : List Byte} {e : DecodeError}
    (h : decodeOperands o body = .error e) : e = .wrongLength ∨ (o = .config ∧ body.length = 5) := by
  cases o
  case config =>
    simp only [decodeOperands, decodeC] at h
    split at h
    · exact .inr ⟨rfl, rfl⟩
    · cases h; exact .inl rfl
  case enci | encd | printi | printd =>
    simp only [decodeOperands, decodeI, decodeD, decodeIP, decodeDP] at h
    split at h <;> cases h
    exact .inl rfl
  case enct | render | printt =>
    simp only [decodeOperands, decodeT, decodeR, decodeTP] at h
    split at h
    · split at h <;> cases h
      exact .inl rfl
    · cases h; exact .inl rfl

/-- A packet with a reserved opcode byte is rejected for it (R50). -/
theorem decode_reservedOpcode {op : Byte} (body : List Byte)
    (h : formatLength op.toNat (body.headD 0).toNat = none) : decode (op :: body) = .error (.reservedOpcode op) := by
  have hop : opcodeOf op = none := by simpa [formatLength_eq] using h
  simp [decode, hop]

/-- A packet that is not as long as its first two bytes tell is rejected for its length (R55). -/
theorem decode_wrongLength {op : Byte} {body : List Byte} {l : ℕ}
    (hl : formatLength op.toNat (body.headD 0).toNat = some l) (hne : body.length + 1 ≠ l) :
    decode (op :: body) = .error .wrongLength := by
  cases hd : decode (op :: body) with
  | ok i =>
    rw [formatLength_of_decode hd, Option.some_inj] at hl
    exact absurd hl hne
  | error e =>
    rw [formatLength_eq, Option.map_eq_some_iff] at hl
    obtain ⟨o, ho, rfl⟩ := hl
    obtain rfl := opcodeByte_of_opcodeOf ho
    rw [decode_opcodeByte] at hd
    rcases decodeOperands_error hd with rfl | ⟨rfl, h5⟩
    · rfl
    · exact absurd (by rw [h5]; rfl) hne

/-- A CONFIG of the right length with `POL` above 0x01 is rejected for it (R53). -/
theorem decode_reservedPolarity (latch clock data digits : Byte) {pol : Byte} (h : 1 < pol.toNat) :
    decode [0x01#8, latch, clock, data, pol, digits] = .error (.reservedPolarity pol) := by
  have hpol : polarityOf pol = none := by
    have h0 : pol ≠ 0x00#8 := by rintro rfl; simp at h
    have h1 : pol ≠ 0x01#8 := by rintro rfl; simp at h
    simp [polarityOf, h0, h1]
  have hdec := decode_opcodeByte .config [latch, clock, data, pol, digits]
  simpa [opcodeByte, decodeOperands, decodeC, hpol] using hdec

namespace Machine

/-- An operand outside the contract is refused where a configured block would accept the command. -/
theorem runEncoder_stop {i : Instr} {r : Refusal} {frame : List Byte} {dur : Option Word} {s : State}
    (ha : s.accepting = true) (hc : s.configured = true) : runEncoder i (some r) frame dur s = .refused r := by
  simp [runEncoder, ha, hc]

/-- An infinity and a NaN stop a decimal command (U6). -/
theorem decimalStop_of_exponent {w : Word} (h : binary32Exponent w = 255) :
    decimalStop w = some .nonFiniteDecimal := by
  simp [decimalStop, binary32Finite, h]

/-- ENCD and PRINTD of an infinity or a NaN are refused where a configured block would accept them (R54). -/
theorem exec_nonFinite {i : Instr} {w : Word} {places : Byte} {dur : Word} {s : State}
    (hi : i = .encd w places ∨ i = .printd w places dur) (hw : binary32Exponent w = 255)
    (ha : s.accepting = true) (hc : s.configured = true) : exec i s = .refused .nonFiniteDecimal := by
  rcases hi with rfl | rfl
  · simp only [exec, execEncd, decimalStop_of_exponent hw, runEncoder_stop ha hc]
  · simp only [exec, execPrintd, decimalStop_of_exponent hw, runEncoder_stop ha hc]

/-- RENDER of a frame of another length than N is refused where a configured block would accept it (R56). -/
theorem exec_render_length {frame : List Byte} {dur : Word} {s : State} (hn : frame.length ≠ s.n)
    (ha : s.accepting = true) (hc : s.configured = true) :
    exec (.render frame dur) s = .refused .frameLengthMismatch := by
  simp [exec, execRender, ha, hc, hn]

/-- A waiting block accepts in the step that takes its packet. -/
theorem State.Waiting.accepting_taken {s : State} (hw : s.Waiting) (rest : List Packet) :
    (s.taken rest).accepting = true := by
  obtain ⟨hp, hb, -⟩ := hw
  exact (accepting_iff _).2 ⟨hp, hb⟩

/-- Settles O4: a packet the decoder rejects is refused under the name of its rejection, and of those it reads the
command refuses the two whose operands are outside the contract. -/
theorem meaninglessPacketsAreRefused : Obligations.MeaninglessPacketsAreRefused := by
  intro s op body rest hw hh
  have hstep := step_fetch hw hh
  refine ⟨?reserved, ?length, ?polarity, ?operands⟩
  case reserved =>
    intro h
    simp [hstep, decode_reservedOpcode body h, refusalOf]
  case length =>
    intro l hl hne
    simp [hstep, decode_wrongLength hl hne, refusalOf]
  case polarity =>
    rintro latch clock data pol digits rfl rfl hpol
    simp [hstep, decode_reservedPolarity latch clock data digits hpol, refusalOf]
  case operands =>
    intro i hc hd
    have ha := hw.accepting_taken rest
    rw [hstep, hd]
    refine ⟨fun w places dur hi hexp => exec_nonFinite hi hexp ha hc, ?_⟩
    rintro frame dur rfl hlen
    exact exec_render_length hlen ha hc

end Machine

end Sys2Proof

namespace Sys2Proof.Machine

/-! ### The run of an encode-only command -/

/-- Where a waiting, configured block is offered a command that encodes, it accepts it (R96, R112). -/
theorem exec_accept {i : Instr} {s : State} (ha : s.accepting = true) (hc : s.configured = true)
    (he : encodesInContract i = true) : exec i s = .next (s.accept i) := by
  cases i <;> simp [encodesInContract] at he <;>
    simp [exec, execEnci, execEncd, execEnct, execPrinti, execPrintd, execPrintt, decimalStop, he, runEncoder, ha, hc]

/-- `N` is read from a `DIGIT_COUNT` that holds a value, whatever else the two states hold. -/
theorem State.n_congr {s t : State} (hs : s.digitCount.isSome = true) (ht : t.digitCount = s.digitCount) :
    t.n = s.n := by
  obtain ⟨n, hn⟩ := Option.isSome_iff_exists.1 hs
  rw [State.n_of_digitCount hn, State.n_of_digitCount (ht.trans hn)]

/-- The same of `POLARITY`. -/
theorem State.pol_congr {s t : State} (hs : s.polarity.isSome = true) (ht : t.polarity = s.polarity) :
    t.pol = s.pol := by
  obtain ⟨p, hp⟩ := Option.isSome_iff_exists.1 hs
  simp [State.pol, ht, hp]

/-- The state two micro-steps after a waiting block was offered a command that encodes: `s` as the block takes the
packet, accepts the command, and encodes it (R96, rows IDLE and ENCODE). -/
def State.encoded (rest : List Packet) (i : Instr) (s : State) : State :=
  ((s.taken rest).accept i).beginStep.finishEncode (encodedFrame i s).1 (encodedFrame i s).2

/-- The two micro-steps that accept and encode a command. -/
theorem runSteps_encoded {s : State} {p : Packet} {rest : List Packet} {i : Instr} (hw : s.Waiting) (hr : s.NoReset)
    (hc : s.configured = true) (hn : s.digitCount.isSome = true) (hpol : s.polarity.isSome = true)
    (hh : s.hostProgram = p :: rest) (hd : decode p = .ok i) (he : encodesInContract i = true) :
    runSteps 2 s = .next (s.encoded rest i) := by
  have haccept : step s = .next ((s.taken rest).accept i) := by
    rw [step_fetch hw hh, hd]
    exact exec_accept (hw.accepting_taken rest) hc he
  have hencode : step ((s.taken rest).accept i) = .next (s.encoded rest i) := by
    have hframe : encodedFrame i ((s.taken rest).accept i).beginStep = encodedFrame i s :=
      encodedFrame_congr i (by simp [State.taken]) (State.pol_congr hpol (by simp [State.taken]))
        (State.n_congr hn (by simp [State.taken]))
    rw [step_encode (hr.tail rfl).next rfl rfl, exec_encode rfl rfl he, hframe, State.encoded]
  rw [runSteps_succ haccept, runSteps_succ hencode, runSteps_zero]

/-- The two micro-steps in which a block answers its frame and completes (R57, R96). -/
theorem runSteps_respond {s : State} (hp : s.seq.phase = .respond) (hr : s.NoReset) :
    runSteps 2 s = .next (rowDone (rowRespond s.beginStep).beginStep) := by
  have hrespond : step s = .next (rowRespond s.beginStep) := step_row hp hr.next
  have hdone : step (rowRespond s.beginStep) = .next (rowDone (rowRespond s.beginStep).beginStep) :=
    step_row (ph := .done) rfl (hr.tail rfl).next
  rw [runSteps_succ hrespond, runSteps_succ hdone, runSteps_zero]

/-- What the block reads back from the frame buffer is the frame last written to it. -/
theorem State.frame_of_writeFrame {t : State} {f : Vector (Option Byte) 8} {g : List Byte}
    (hf : t.f = writeFrame f g) (hl : g.length = t.n) (h8 : t.n ≤ 8) : t.frame = g := by
  apply List.ext_getElem
  · simp [State.frame, hl, h8]
  · intro k _ hk
    simp [State.frame, State.frameByte, hf, writeFrame_get, hk]

/-- Settles O23: two micro-steps write the frame, the same one as `exec` of the accepted command does, and two answer
it and complete. -/
theorem encodeOnlyCommandAnswersItsFrame : Obligations.EncodeOnlyCommandAnswersItsFrame := by
  intro s e p rest i hw hr hc hn hpol h8 hh hd he hprinti hprintd hprintt hexec
  have hdur : (encodedFrame i s).2 = none := by
    cases i <;> simp_all [encodedFrame]
  have hlen : (encodedFrame i s).1.length = s.n := encodedFrame_length i s he
  have he_frame : e.frame = (encodedFrame i s).1 := by
    have hsame : encodedFrame i (s.accept i) = encodedFrame i s := encodedFrame_congr i rfl rfl rfl
    rw [exec_encode rfl rfl he, hsame] at hexec
    cases hexec
    exact frame_finishEncode _ hlen h8
  have hu_frame : (s.encoded rest i).beginStep.frame = (encodedFrame i s).1 := by
    have hu : (s.encoded rest i).beginStep.n = s.n := State.n_congr hn (by simp [State.encoded, State.taken])
    exact State.frame_of_writeFrame (State.finishEncode_f ..) (hlen.trans hu.symm) (hu.trans_le h8)
  have hrun : runSteps 4 s = .next (rowDone (rowRespond (s.encoded rest i).beginStep).beginStep) := by
    have hr' : (s.encoded rest i).NoReset := (hr.tail (t := s.taken rest) rfl).tail (by simp [State.encoded])
    rw [runSteps_add 2 (runSteps_encoded hw hr hc hn hpol hh hd he)]
    exact runSteps_respond (by simp [State.encoded, hdur]) hr'
  rw [he_frame]
  refine ⟨_, hrun, ?_, hlen, ?_⟩
  · simp [rowDone, rowRespond, hu_frame]
  · simp only [rowDone, rowRespond, hu_frame]
    simp [State.SameConfiguration, State.encoded, State.taken]

end Sys2Proof.Machine

namespace Sys2Proof

/-! ### The character map -/

/-! What the map gives a byte, by the range it lies in (R78). -/

theorem glyphOf_upper (p : Params) {c : Byte} (h : 0x41 ≤ c.toNat ∧ c.toNat ≤ 0x5A) :
    glyphOf p c = glyphLetter p (Fin.ofNat 26 (c.toNat - 0x41)) := if_pos h

theorem glyphOf_lower (p : Params) {c : Byte} (h : 0x61 ≤ c.toNat ∧ c.toNat ≤ 0x7A) :
    glyphOf p c = glyphLetter p (Fin.ofNat 26 (c.toNat - 0x61)) := by
  have hu : ¬(0x41 ≤ c.toNat ∧ c.toNat ≤ 0x5A) := by omega
  simp only [glyphOf, if_neg hu, if_pos h]

theorem glyphOf_digit (p : Params) {c : Byte} (h : 0x30 ≤ c.toNat ∧ c.toNat ≤ 0x39) :
    glyphOf p c = glyphDigit p (Fin.ofNat 10 (c.toNat - 0x30)) := by
  have hu : ¬(0x41 ≤ c.toNat ∧ c.toNat ≤ 0x5A) := by omega
  have hl : ¬(0x61 ≤ c.toNat ∧ c.toNat ≤ 0x7A) := by omega
  simp only [glyphOf, if_neg hu, if_neg hl, if_pos h]

theorem glyphOf_other (p : Params) {c : Byte} (hu : ¬(0x41 ≤ c.toNat ∧ c.toNat ≤ 0x5A))
    (hl : ¬(0x61 ≤ c.toNat ∧ c.toNat ≤ 0x7A)) (hd : ¬(0x30 ≤ c.toNat ∧ c.toNat ≤ 0x39)) (hm : c.toNat ≠ 0x2D) :
    glyphOf p c = glyphBlank p := by
  simp only [glyphOf, if_neg hu, if_neg hl, if_neg hd, if_neg hm]

/-- The character `j` places after a base character whose range fits a byte. -/
theorem toNat_charAfter {base j : ℕ} (h : base + j < 256) : (BitVec.ofNat 8 (base + j)).toNat = base + j := by
  rw [BitVec.toNat_ofNat, Nat.mod_eq_of_lt h]

/-- Settles O16: each range of characters counts from its first one. -/
theorem characterMapIsAscii : Obligations.CharacterMapIsAscii := by
  intro p
  refine ⟨fun l => ⟨?upper, ?lower⟩, fun d => ?digit, rfl, fun c => glyphOf_other p⟩
  case upper =>
    have hc := toNat_charAfter (base := 0x41) (j := l) (by omega)
    rw [glyphOf_upper p (by omega), hc]
    simp
  case lower =>
    have hc := toNat_charAfter (base := 0x61) (j := l) (by omega)
    rw [glyphOf_lower p (by omega), hc]
    simp
  case digit =>
    have hc := toNat_charAfter (base := 0x30) (j := d) (by omega)
    rw [glyphOf_digit p (by omega), hc]
    simp

/-- A letter has one glyph in both cases (R78, R81 (d)). -/
@[simp] theorem glyphOf_upperCase (p : Params) (c : Byte) : glyphOf p (upperCase c) = glyphOf p c := by
  by_cases h : 0x61 ≤ c.toNat ∧ c.toNat ≤ 0x7A
  · have hc : (c - 0x20#8).toNat = c.toNat - 0x20 := BitVec.toNat_sub_of_le (by rw [BitVec.le_def]; simp; omega)
    rw [upperCase, if_pos h, glyphOf_lower p h, glyphOf_upper p (by omega), hc]
    congr 2
  · rw [upperCase, if_neg h]

theorem textFrame_map_upperCase (p : Params) (text : List Byte) (n : ℕ) :
    textFrame p (text.map upperCase) n = textFrame p text n := by
  refine List.map_congr_left fun k _ => ?_
  rw [List.getElem?_map]
  cases text[k]? <;> simp

/-- Texts that differ in the case of letters only have one frame. -/
theorem textFrame_congr_upperCase {a b : List Byte} (h : a.map upperCase = b.map upperCase) (p : Params) (n : ℕ) :
    textFrame p a n = textFrame p b n := by
  rw [← textFrame_map_upperCase p a, h, textFrame_map_upperCase]

/-! ### The layout loop -/

/-- R66: the loop after `j` turns: the lowest `j` digits stand on the right as far as there is room, blanks elsewhere,
and the digits not yet produced are left. -/
def layoutTurned (p : Params) (m n j : ℕ) : LayoutState where
  frame := (List.range n).map fun k => if n - 1 - k < j then glyphOfUnits p (digit m (n - 1 - k)) else glyphBlank p
  free  := n - j
  rest  := m / 10 ^ j

theorem layoutTurned_zero (p : Params) (m n : ℕ) : layoutTurned p m n 0 = ⟨List.replicate n (glyphBlank p), n, m⟩ := by
  simp [layoutTurned, List.map_const']

/-- A units digit is a digit of the number the loop started from. -/
theorem glyphOfUnits_div (p : Params) (m j : ℕ) : glyphOfUnits p (m / 10 ^ j) = glyphOfUnits p (digit m j) := by
  have h : Fin.ofNat 10 (m / 10 ^ j) = Fin.ofNat 10 (digit m j) := by simp [Fin.ext_iff, digit]
  rw [glyphOfUnits, h, glyphOfUnits]

/-- A turn with room left fills the next slot (R66). -/
theorem layoutTurned_frame_set {n j : ℕ} (p : Params) (m : ℕ) (hj : j < n) :
    (layoutTurned p m n j).frame.set (n - (j + 1)) (glyphOfUnits p (digit m j)) =
      (layoutTurned p m n (j + 1)).frame := by
  refine List.ext_getElem (by simp [layoutTurned]) fun k hk _ => ?_
  have hkn : k < n := by simpa [layoutTurned] using hk
  simp only [layoutTurned, List.getElem_set, List.getElem_map, List.getElem_range]
  by_cases hnew : n - (j + 1) = k
  · have hslot : n - 1 - k = j := by omega
    simp [hnew, hslot]
  · have hold : n - 1 - k < j + 1 ↔ n - 1 - k < j := by omega
    simp [hnew, hold]

/-- A turn with no room left drops its digit (R66). -/
theorem layoutTurned_frame_full {n j : ℕ} (p : Params) (m : ℕ) (hj : n ≤ j) :
    (layoutTurned p m n (j + 1)).frame = (layoutTurned p m n j).frame := by
  refine List.map_congr_left fun k hk => ?_
  have hkn := List.mem_range.1 hk
  rw [if_pos (by omega), if_pos (by omega)]

/-- One turn of the loop goes from `j` turns to `j + 1`. -/
theorem layoutTurn_layoutTurned (p : Params) (m n j : ℕ) :
    layoutTurn p (layoutTurned p m n j) = layoutTurned p m n (j + 1) := by
  have hrest : (layoutTurned p m n j).rest / 10 = (layoutTurned p m n (j + 1)).rest := by
    simp only [layoutTurned, Nat.div_div_eq_div_mul, pow_succ]
  unfold layoutTurn
  split
  case h_1 hfree =>
    have hj : n ≤ j := Nat.le_of_sub_eq_zero hfree
    have hfree' : (layoutTurned p m n j).free = (layoutTurned p m n (j + 1)).free := by
      simp only [layoutTurned]; omega
    rw [hrest, hfree', ← layoutTurned_frame_full p m hj]
  case h_2 k hfree =>
    have hk : n - j = k + 1 := hfree
    obtain rfl : k = n - (j + 1) := by omega
    have hunits : glyphOfUnits p (layoutTurned p m n j).rest = glyphOfUnits p (digit m j) := glyphOfUnits_div p m j
    rw [hrest, hunits, layoutTurned_frame_set p m (by omega)]
    rfl

/-- `m` has at most `j` digits exactly when nothing is left of it after `j` digits; `0` has one digit (R9). -/
theorem ndigits_le_iff {m j : ℕ} (hj : 1 ≤ j) : ndigits m ≤ j ↔ m / 10 ^ j = 0 := by
  rw [ndigits_eq, decimalDigitCount, Nat.max_le, Nat.digits_length_le_iff (by norm_num),
    Nat.div_eq_zero_iff_lt (by positivity)]
  exact and_iff_right hj

/-- A number has no more decimal than binary digits. -/
theorem ndigits_le_log2 (m : ℕ) : ndigits m ≤ Nat.log2 m + 1 := by
  rw [ndigits_le_iff (by omega)]
  apply Nat.div_eq_of_lt
  calc m < 2 ^ (Nat.log2 m + 1) := Nat.lt_log2_self
    _ ≤ 10 ^ (Nat.log2 m + 1) := Nat.pow_le_pow_left (by norm_num) _

/-- The loop stops after `max(ndigits(m), mind)` turns, where its bound on the turns lets it come so far (R66, R67). -/
theorem layoutRepeat_layoutTurned {p : Params} {m mind n : ℕ} (turns : ℕ) {j : ℕ}
    (hj : j < max (ndigits m) mind) (hturns : max (ndigits m) mind ≤ j + turns) :
    layoutRepeat p mind turns j (layoutTurned p m n j) = layoutTurned p m n (max (ndigits m) mind) := by
  induction turns generalizing j with
  | zero => omega
  | succ turns ih =>
    have hstop : ((layoutTurned p m n (j + 1)).rest = 0 ∧ mind ≤ j + 1) ↔ max (ndigits m) mind ≤ j + 1 := by
      rw [Nat.max_le, ndigits_le_iff (Nat.le_add_left 1 j)]
      rfl
    simp only [layoutRepeat, layoutTurn_layoutTurned, hstop]
    split
    case isTrue hlast => rw [show j + 1 = max (ndigits m) mind by omega]
    case isFalse hmore => exact ih (by omega) (by omega)

/-- The frame of the finished loop is the closed form, without the minus. -/
theorem layoutTurned_frame_eq_layout (p : Params) (m mind n : ℕ) :
    (layoutTurned p m n (max (ndigits m) mind)).frame = layout p false m mind n := by
  simp [layoutTurned, layout, layoutSlot]

/-- Where the digits fill the frame there is no room for the minus (R67). -/
theorem layout_neg_full (p : Params) {m mind n : ℕ} (h : n ≤ max (ndigits m) mind) :
    layout p true m mind n = layout p false m mind n := by
  refine List.map_congr_left fun k hk => ?_
  have hkn := List.mem_range.1 hk
  have hdigit : n - 1 - k < max (ndigits m) mind := by omega
  simp only [layoutSlot, if_pos hdigit]

/-- Elsewhere the minus stands left of the digits (R67). -/
theorem layout_neg_set (p : Params) {m mind n k : ℕ} (h : n - max (ndigits m) mind = k + 1) :
    layout p true m mind n = (layout p false m mind n).set k (glyphMinus p) := by
  refine List.ext_getElem (by simp) fun i hi _ => ?_
  have hin : i < n := by simpa using hi
  by_cases hminus : k = i
  · have hslot : n - 1 - i = max (ndigits m) mind := by omega
    simp [layout, layoutSlot, hminus, hslot]
  · have hslot : n - 1 - i ≠ max (ndigits m) mind := by omega
    simp [layout, layoutSlot, hminus, hslot]

theorem layoutLoop_eq_layout (p : Params) (neg : Bool) (m mind n : ℕ) :
    layoutLoop p neg m mind n = layout p neg m mind n := by
  have hpos : 1 ≤ ndigits m := by rw [ndigits_eq]; exact Nat.le_max_left ..
  have hlog := ndigits_le_log2 m
  have hrun : layoutRepeat p mind (Nat.log2 m + mind + 1) 0 ⟨List.replicate n (glyphBlank p), n, m⟩ =
      layoutTurned p m n (max (ndigits m) mind) := by
    rw [← layoutTurned_zero]
    exact layoutRepeat_layoutTurned _ (by omega) (by omega)
  simp only [layoutLoop, hrun, layoutTurned_frame_eq_layout]
  cases neg
  case false => rfl
  case true =>
    cases hfree : n - max (ndigits m) mind with
    | zero => rw [layout_neg_full p (by omega)]; simp only [layoutTurned, hfree]
    | succ k => rw [layout_neg_set p hfree]; simp only [layoutTurned, hfree]

/-- Settles O18: the loop stops after `max(ndigits(m), mind)` turns, with the digits of the closed form in place. -/
theorem layoutLoopIsItsClosedForm : Obligations.LayoutLoopIsItsClosedForm :=
  fun p neg m mind n _ => layoutLoop_eq_layout p neg m mind n

/-! ### The common-cathode frame of a command that encodes -/

/-- The common-cathode frame of a command that encodes (R70, R73, R77), before `Normalize`. -/
def cathodeFrame (p : Params) (n : ℕ) : Instr → List Byte
  | .enci v | .printi v _ => integerFrame p (intOperand v) n
  | .encd w places | .printd w places _ => decimalFrame p (binary32Value w) places.toNat n
  | .enct text | .printt text _ => textFrame p text n
  | .config _ _ _ _ _ | .render _ _ => []

namespace Machine

/-- The frame the encode step writes is the common-cathode frame, normalized (R80). -/
theorem encodedFrame_fst (i : Instr) (s : State) :
    (encodedFrame i s).1 = normalizeFrame s.pol (cathodeFrame s.params s.n i) := by
  cases i <;> rfl

theorem cathodeFrame_length {i : Instr} (s : State) (he : encodesInContract i = true) :
    (cathodeFrame s.params s.n i).length = s.n := by
  have hlen := encodedFrame_length i s he
  rwa [encodedFrame_fst, normalize_length] at hlen

/-- The encode step as one update of the state. -/
theorem finishEncode_eq (frame : List Byte) (dur : Option Word) (s : State) :
    s.finishEncode frame dur = { s with
      f := writeFrame s.f frame, dur := dur.elim s.dur some, latched := none,
      seq := ⟨dur.elim .respond fun _ => .rStamp, s.seq.pos, 0⟩ } := by
  cases dur <;> rfl

/-- The encode step of a command whose common-cathode frame has the bytes `slot` writes them, and with a PRINT the
duration, and nothing else but the sequencer and the operand latch. -/
theorem exec_encode_writes {i : Instr} {s : State} {slot : ℕ → Byte} (hp : s.seq.phase = .encode)
    (hl : s.latched = some i) (he : encodesInContract i = true)
    (hslot : ∀ k, k < s.n → (cathodeFrame s.params s.n i)[k]? = some (slot k)) :
    ∃ t, exec i s = .next t ∧
      t = { s with
        f := t.f, dur := (encodedFrame i s).2.elim s.dur some, latched := none,
        seq := ⟨(encodedFrame i s).2.elim .respond fun _ => .rStamp, s.seq.pos, 0⟩ } ∧
      s.FrameWritten slot t := by
  refine ⟨_, exec_encode hp hl he, ?_, ?_⟩
  · rw [finishEncode_eq]
  · exact frameWritten_of s _ (cathodeFrame_length s he) slot hslot _ (by rw [State.finishEncode_f, encodedFrame_fst])

/-- Settles O13: slot by slot the integer's frame is its layout. -/
theorem enciWritesItsFrame : Obligations.EnciWritesItsFrame := by
  intro v s hp hl
  exact exec_encode_writes hp hl rfl fun k hk => layout_get _ _ _ _ _ k hk

/-- Settles O14: slot by slot the decimal's frame is that of the rational its operand stands for. -/
theorem encdWritesItsFrame : Obligations.EncdWritesItsFrame := by
  intro w places s hp hl hfinite
  exact exec_encode_writes hp hl hfinite fun k hk => decimalFrame_get _ w _ _ k hk

/-- Settles O15: slot by slot the text's frame is the glyph of the character there, or a blank. -/
theorem enctWritesItsFrame : Obligations.EnctWritesItsFrame := by
  intro text s hp hl
  exact exec_encode_writes hp hl rfl fun k hk => textFrame_get _ text _ k hk

/-! ### Two encode steps -/

/-- A frame byte the encode step has written is the byte of the common-cathode frame, normalized. -/
theorem exec_encode_get {i : Instr} {s t : State} (hp : s.seq.phase = .encode) (hl : s.latched = some i)
    (he : encodesInContract i = true) (h : exec i s = .next t) {k : Fin 8} (hk : k.val < s.n) :
    t.f.get k = (cathodeFrame s.params s.n i)[k.val]?.map (normalizeByte s.pol) := by
  have hlen : k.val < (cathodeFrame s.params s.n i).length := (cathodeFrame_length s he).symm ▸ hk
  rw [exec_encode hp hl he] at h
  cases h
  simp [encodedFrame_fst, writeFrame_get, normalizeFrame, hlen]

/-- Settles O19: both steps normalize one common-cathode frame, and `Normalize` complements for common anode. -/
theorem commonAnodeFrameIsComplement : Obligations.CommonAnodeFrameIsComplement := by
  intro i s t hp hl he h
  have hu := exec_encode (s := { s with polarity := some .commonAnode }) hp hl he
  refine ⟨_, hu, fun k hk => ?_⟩
  have hlen : k.val < (cathodeFrame s.params s.n i).length := (cathodeFrame_length s he).symm ▸ hk
  obtain ⟨b, hb⟩ : ∃ b, (cathodeFrame s.params s.n i)[k.val]? = some b := ⟨_, List.getElem?_eq_getElem hlen⟩
  refine ⟨b, ?_, ?_⟩
  · rw [exec_encode_get (s := { s with polarity := some .commonCathode }) hp hl he h hk]
    exact congrArg (Option.map (normalizeByte .commonCathode)) hb
  · rw [exec_encode_get (s := { s with polarity := some .commonAnode }) hp hl he hu hk]
    exact congrArg (Option.map (normalizeByte .commonAnode)) hb

/-- Settles O20: a frame byte is a function of the operands, the tables, the polarity and N. -/
theorem equalConfigurationsEncodeEqualFrames : Obligations.EqualConfigurationsEncodeEqualFrames := by
  intro i s₁ s₂ t₁ pol n hp₁ hp₂ hl₁ hl₂ hparams hpol₁ hpol₂ hn₁ hn₂ he h₁
  have h₂ := exec_encode hp₂ hl₂ he
  refine ⟨_, h₂, fun k hk => ?_⟩
  have hN₁ := State.n_of_digitCount hn₁
  have hN₂ := State.n_of_digitCount hn₂
  rw [exec_encode_get hp₁ hl₁ he h₁ (by omega), exec_encode_get hp₂ hl₂ he h₂ (by omega)]
  simp only [hparams, hN₁, hN₂, State.pol, hpol₁, hpol₂, Option.getD_some]

/-- Two commands with one frame and one duration have one encode step: it empties the operand latch. -/
theorem exec_encode_congr {i j : Instr} {s : State} (hp : s.seq.phase = .encode) (hi : encodesInContract i = true)
    (hj : encodesInContract j = true) (h : encodedFrame i s = encodedFrame j s) :
    exec i { s with latched := some i } = exec j { s with latched := some j } := by
  have hstep (c : Instr) (hc : encodesInContract c = true) : exec c { s with latched := some c } =
      .next (s.finishEncode (encodedFrame c s).1 (encodedFrame c s).2) := by
    have hframe : encodedFrame c { s with latched := some c } = encodedFrame c s := encodedFrame_congr c rfl rfl rfl
    rw [exec_encode (s := { s with latched := some c }) hp rfl hc, hframe, finishEncode_eq, finishEncode_eq]
  rw [hstep i hi, hstep j hj, h]

/-- Settles O21: texts that differ in the case of letters only have one frame. -/
theorem textCommandsIgnoreCase : Obligations.TextCommandsIgnoreCase := by
  intro a b dur s hp hcase
  have hframe : s.textF a = s.textF b :=
    congrArg (normalizeFrame s.pol) (textFrame_congr_upperCase hcase s.params s.n)
  constructor
  · exact exec_encode_congr hp rfl rfl (congrArg (·, none) hframe)
  · exact exec_encode_congr hp rfl rfl (congrArg (·, some dur) hframe)

/-! ### What a command leaves alone -/

/-- No command's micro-step answers on a response port or takes a packet from the host: the sequencer does. -/
theorem exec_ports {i : Instr} {s t : State} (h : exec i s = .next t) :
    t.hostProgram = s.hostProgram ∧ t.rspFrame = s.rspFrame ∧ t.rspDone = s.rspDone := by
  rcases exec_cases h with rfl | ⟨-, -, _, _, _, _, _, -, -, -, rfl⟩ | ⟨-, -, -, rfl⟩ | ⟨-, -, _, _, -, -, rfl⟩ |
    ⟨-, -, -, _, _, -, rfl⟩
  · exact ⟨rfl, rfl, rfl⟩
  · simp [configure_eq]
  all_goals simp

/-- Settles O22: the chain, the clock, the tables and the ports, each by what a command's micro-step leaves in it. -/
theorem commandsLeaveTheEnvironmentAlone : Obligations.CommandsLeaveTheEnvironmentAlone := by
  intro i s t h
  obtain ⟨hsr, hout⟩ := exec_chain h
  obtain ⟨hplatform, hticks⟩ := exec_clock h
  obtain ⟨hhost, hframe, hdone⟩ := exec_ports h
  exact ⟨hsr, hout, exec_timeMs h, exec_params h, hhost, hplatform, hticks, hframe, hdone⟩

end Machine

end Sys2Proof

namespace Sys2Proof.Machine

/-! ### Two bytes on the chain's outputs -/

/-- The twenty steps from a latch-low to the latch-high that follows it, in the four phases of a load (R90) or of the
blanking (R94): whatever the chain held, both bytes stand on its outputs (R102). -/
theorem run_commit {s : State} {lo first second hi after : Phase} {sel seg lp cp dp : Byte} {pos : Fin 8}
    {sleep : State → Option ℕ}
    (hlo : ∀ u : State, rowOf lo u = { (u.setLevel .latch .low).goto first with sleepStart := u.sleepStart })
    (hfirst : ∀ u : State, s.Kept u → u.seq.pos = pos → rowOf first u = u.shiftStep .lsbFirst sel second)
    (hsecond : ∀ u : State, s.Kept u → u.seq.pos = pos → rowOf second u = u.shiftStep .msbFirst seg hi)
    (hhi : ∀ u : State, rowOf hi u = { (u.setLevel .latch .high).goto after with sleepStart := sleep u })
    (hph : (lo = .rLatchLo ∧ first = .rShiftSel ∧ second = .rShiftSeg ∧ hi = .rLatchHi) ∨
      (lo = .bLatchLo ∧ first = .bShift1 ∧ second = .bShift2 ∧ hi = .bLatchHi))
    (hs : s.seq = ⟨lo, pos, 0⟩) (hc : s.clock = .low) (hr : s.NoReset) (hl : s.latchPin = some lp)
    (hcp : s.clockPin = some cp) (hd : s.dataPin = some dp) :
    ∃ t, runSteps 20 s = .next t ∧ s.Kept t ∧ t.NoReset ∧ t.seq = ⟨after, pos, 0⟩ ∧ t.sr = loadedStages sel seg ∧
      t.out = t.sr ∧ t.latch = .high ∧ t.clock = .low ∧ t.data = levelOfBit (seg.getLsbD 0) ∧
      t.trace = .setLevel .latch lp .high :: .shiftOut dp cp .msbFirst seg :: .shiftOut dp cp .lsbFirst sel ::
        .setLevel .latch lp .low :: s.trace := by
  obtain ⟨plo, phi, pfirst, psecond⟩ : (lo ≠ .idle ∧ lo ≠ .encode ∧ lo ≠ .rStamp ∧ lo ≠ .done) ∧
      (hi ≠ .idle ∧ hi ≠ .encode ∧ hi ≠ .rStamp ∧ hi ≠ .done) ∧ first.shifting = true ∧ second.shifting = true := by
    rcases hph with ⟨rfl, rfl, rfl, rfl⟩ | ⟨rfl, rfl, rfl, rfl⟩ <;> simp [Phase.shifting]
  obtain ⟨a, a_step, a_kept, a_reset, a_seq, a_sr, a_latch, -, a_clock, -, a_trace, -⟩ :=
    step_latch hlo plo hs hr hl
  obtain ⟨b, b_run, b_kept, b_reset, b_seq, b_sr, b_latch, -, b_clock, -, b_trace⟩ :=
    run_byte pfirst (fun u hu => hfirst u (a_kept.trans hu)) a_seq (a_clock.trans hc) a_reset
      (a_kept.dataPin.trans hd) (a_kept.clockPin.trans hcp)
  have ab := a_kept.trans b_kept
  obtain ⟨c, c_run, c_kept, c_reset, c_seq, c_sr, c_latch, -, c_clock, c_data, c_trace⟩ :=
    run_byte psecond (fun u hu => hsecond u (ab.trans hu)) b_seq b_clock b_reset (ab.dataPin.trans hd)
      (ab.clockPin.trans hcp)
  have ac := ab.trans c_kept
  obtain ⟨t, t_step, t_kept, t_reset, t_seq, t_sr, t_latch, t_out, t_clock, t_data, t_trace, -⟩ :=
    step_latch hhi phi c_seq c_reset (ac.latchPin.trans hl)
  have low : c.latch = .low := c_latch.trans (b_latch.trans a_latch)
  refine ⟨t, ?run, ac.trans t_kept, t_reset, t_seq, ?sr, ?out, t_latch, t_clock.trans c_clock, ?data, ?trace⟩
  case run =>
    rw [runSteps_succ a_step, show 19 = 9 + (9 + 1) from rfl, runSteps_add _ b_run, runSteps_add _ c_run,
      runSteps_succ t_step, runSteps_zero]
  case sr => rw [t_sr, c_sr, b_sr, shiftBits_load]
  case out => simp [t_out, t_sr, low]
  case data => exact t_data.trans c_data
  case trace => rw [t_trace, c_trace, b_trace, a_trace]

/-- What no micro-step of a load touches includes the configuration. -/
theorem State.Kept.sameConfiguration {s t : State} (h : s.Kept t) : s.SameConfiguration t :=
  ⟨h.latchPin, h.clockPin, h.dataPin, h.polarity, h.digitCount, h.configured⟩

/-- Outside the shifting phases `SEQ` is the phase and `POS` alone (R96). -/
theorem State.Inv.seq_eq {s : State} (hi : s.Inv) {ph : Phase} (hp : s.seq.phase = ph) (h : ph.shifting = false) :
    s.seq = ⟨ph, s.seq.pos, 0⟩ := by
  subst hp
  rw [← hi.bitcnt_zero h]

/-- `CLOCK` is Low between the steps of a block at work (R137). -/
theorem State.Inv.clock_low {s : State} (hi : s.Inv) (h : s.seq.phase ≠ .idle) : s.clock = .low :=
  (hi.lines_driven (hi.configured_of_busy h)).1

/-- Settles O30: the four phases of a load, with the position's select byte and frame byte. -/
theorem loadCommitsBothBytes : Obligations.LoadCommitsBothBytes := by
  intro s seg lp cp dp pol hi hr hp hf hl hcp hd hpol
  have hselect (u : State) (hu : s.Kept u) (hpos : u.seq.pos = s.seq.pos) :
      rowOf .rShiftSel u = u.shiftStep .lsbFirst (selByte s.params pol s.seq.pos) .rShiftSeg := by
    simp [rowOf, rowShiftSel, State.pol, hu.params, hu.polarity, hpol, hpos]
  have hsegment (u : State) (hu : s.Kept u) (hpos : u.seq.pos = s.seq.pos) :
      rowOf .rShiftSeg u = u.shiftStep .msbFirst seg .rLatchHi := by
    simp [rowOf, rowShiftSeg, State.frameByte, hu.f, hf, hpos]
  obtain ⟨t, hrun, hkept, -, hseq, hsr, hout, hlatch, hclock, -, htrace⟩ :=
    run_commit (after := .rHold) (sleep := fun u => some u.timeMs) (fun _ => rfl) hselect hsegment (fun _ => rfl)
      (.inl ⟨rfl, rfl, rfl, rfl⟩) (hi.seq_eq hp rfl) (hi.clock_low (by simp [hp])) hr hl hcp hd
  exact ⟨t, hrun, hseq, hsr, hout, hlatch, hclock, hkept.f, hkept.t0, hkept.dur, hkept.sameConfiguration, htrace⟩

/-- Settles O31: the four phases of the blanking with two zero bytes, then the completion. -/
theorem blankingClearsTheChain : Obligations.BlankingClearsTheChain := by
  intro s lp cp dp hi hr hp hl hcp hd
  obtain ⟨t, hrun, hkept, hr', hseq, hsr, hout, hlatch, hclock, hdata, htrace⟩ :=
    run_commit (sel := 0#8) (seg := 0#8) (after := .done) (sleep := State.sleepStart) (fun _ => rfl)
      (fun _ _ _ => rfl) (fun _ _ _ => rfl) (fun _ => rfl) (.inr ⟨rfl, rfl, rfl, rfl⟩) (hi.seq_eq hp rfl)
      (hi.clock_low (by simp [hp])) hr hl hcp hd
  have hzero : loadedStages 0#8 0#8 = stagesOf 0#16 := by decide
  have hdone := step_row (s := t) (ph := .done) (by rw [hseq]) hr'.next
  have hrun' : runSteps 21 s = .next (rowOf .done t.beginStep) := by
    rw [runSteps_add 1 hrun, runSteps_succ hdone, runSteps_zero]
  exact ⟨_, hrun', rfl, rfl, rfl, hsr.trans hzero, hout.trans (hsr.trans hzero), hlatch, hclock, hdata, rfl, rfl, rfl,
    hkept.sameConfiguration, congrArg (Event.rspDone :: ·) htrace⟩

end Sys2Proof.Machine

namespace Sys2Proof.Machine

/-! ### The next `SEQ` of a block at work -/

/-- The answer of the check matters in the check alone (R96). -/
theorem specNextSeq_goesOn {q : Seq} (h : q.phase ≠ .rCheck) (go go' ended : Bool) (n : ℕ) (check : ExitCheck) :
    specNextSeq go ended n check q = specNextSeq go' ended n check q := by
  obtain ⟨ph, pos, bc⟩ := q
  cases ph
  case rCheck => exact absurd rfl h
  all_goals rfl

/-- A scan's stamp and duration are read from registers that hold values, whatever else the two states hold. -/
theorem State.Inv.scan_readers {s t : State} (hi : s.Inv) (hs : s.seq.phase.scanning = true) (ht : t.t0 = s.t0)
    (hd : t.dur = s.dur) : t.stampValue = s.stampValue ∧ t.durMs = s.durMs := by
  obtain ⟨stamp, h0⟩ := Option.isSome_iff_exists.1 (hi.stamp_live hs).1
  obtain ⟨dur, h1⟩ := Option.isSome_iff_exists.1 (hi.dur_live (.inr hs))
  simp [State.stampValue, State.durMs, ht, hd, h0, h1]

/-- `N` is known to a block at work. -/
theorem State.Inv.digitCount_isSome {s : State} (hi : s.Inv) (h : s.seq.phase ≠ .idle) :
    s.digitCount.isSome = true := by
  obtain ⟨n, hn, -⟩ := hi.digitCount (hi.configured_of_busy h)
  simp [hn]

/-- Outside `IDLE` and `ENCODE` a step moves `SEQ` as the table says. -/
theorem advance_beginStep_seq {s : State} (hi : s.Inv) (hidle : s.seq.phase ≠ .idle) :
    (advance s.beginStep).seq = specNextSeq (decide (s.timeMs + s.nextInput.advanceMs - s.stampValue < s.durMs))
      (s.sleepStart.all fun start => decide (start + s.params.povDelayMs ≤ s.timeMs + s.nextInput.advanceMs))
      s.n s.params.exitCheck s.seq := by
  have hn : s.beginStep.n = s.n := State.n_congr (hi.digitCount_isSome hidle) rfl
  have hrange : 1 ≤ s.n ∧ s.n ≤ 8 := hi.n_range (hi.configured_of_busy hidle)
  have hseq := rowOf_seq s.beginStep fun _ => hn ▸ hrange
  rw [hn] at hseq
  refine hseq.trans ?_
  by_cases hcheck : s.seq.phase = .rCheck
  · obtain ⟨hstamp, hdur⟩ := hi.scan_readers (t := s.beginStep) (by simp [hcheck, Phase.scanning]) rfl rfl
    simp only [State.elapsedMs, hstamp, hdur]
    rfl
  · exact specNextSeq_goesOn hcheck _ _ _ _ _

/-- Settles O26: the rows' own table, read before the clock agent's move. -/
theorem sequencerFollowsItsTable : Obligations.SequencerFollowsItsTable := by
  intro s hi hr hidle henc
  exact ⟨_, step_advance hr hidle henc, advance_beginStep_seq hi hidle⟩

/-! ### A scan before its blanking -/

/-- The phases after the stamp and before the blanking (R92). -/
def Phase.showing (ph : Phase) : Bool := ph.scanning && !ph.blanking

theorem Phase.showing_iff {ph : Phase} : ph.showing = true ↔ ph.scanning = true ∧ ph.blanking = false := by
  simp [Phase.showing]

/-- A case for each of these phases. -/
theorem Phase.showing_cases {motive : (ph : Phase) → ph.showing = true → Prop} (rCheck : motive .rCheck rfl)
    (rLatchLo : motive .rLatchLo rfl) (rShiftSel : motive .rShiftSel rfl) (rShiftSeg : motive .rShiftSeg rfl)
    (rLatchHi : motive .rLatchHi rfl) (rHold : motive .rHold rfl) (ph : Phase) (h : ph.showing = true) :
    motive ph h := by
  cases ph
  case rCheck => exact rCheck
  case rLatchLo => exact rLatchLo
  case rShiftSel => exact rShiftSel
  case rShiftSeg => exact rShiftSeg
  case rLatchHi => exact rLatchHi
  case rHold => exact rHold
  all_goals cases h

theorem Phase.ne_of_showing {ph : Phase} (h : ph.showing = true) :
    ph ≠ .idle ∧ ph ≠ .encode ∧ ph ≠ .rStamp ∧ ph ≠ .done := by
  cases ph <;> simp_all [Phase.showing, Phase.scanning]

/-- Along the table a scan before its blanking stays one, or goes from the check to the blanking. -/
theorem specNextSeq_showing {q : Seq} (h : q.phase.showing = true) (go ended : Bool) (n : ℕ) (check : ExitCheck) :
    (specNextSeq go ended n check q).phase.showing = true ∨
      (go = false ∧ specNextSeq go ended n check q = ⟨.bLatchLo, q.pos, 0⟩) := by
  obtain ⟨ph, pos, bc⟩ := q
  cases ph, h using Phase.showing_cases
  case rCheck => cases go <;> simp [specNextSeq, Phase.showing, Phase.scanning, Phase.blanking]
  case rLatchLo | rLatchHi => exact .inl rfl
  case rShiftSel | rShiftSeg =>
    left
    simp only [specNextSeq]
    split <;> rfl
  case rHold =>
    left
    simp only [specNextSeq]
    split
    · rfl
    · split
      · rfl
      · cases check <;> rfl

/-- A step of a scan before its blanking: what it keeps, and the next `SEQ` in terms of the state it leads to. -/
theorem step_showing {s t : State} (hi : s.Inv) (hr : s.nextInput.reset = false) (hp : s.seq.phase.showing = true)
    (h : step s = .next t) :
    t = rowOf s.seq.phase s.beginStep ∧ s.Kept t ∧ t.n = s.n ∧ t.stampValue = s.stampValue ∧ t.durMs = s.durMs ∧
      t.seq = specNextSeq (decide (t.elapsedMs < t.durMs)) s.beginStep.sleepOver s.n s.params.exitCheck s.seq := by
  obtain ⟨hidle, henc, hstamp, hdone⟩ := Phase.ne_of_showing hp
  have ht : t = rowOf s.seq.phase s.beginStep := by
    simpa [step_row rfl hr hidle henc] using h.symm
  have hkept : s.Kept t := ht ▸ (beginStep_kept s).trans (rowOf_kept _ _ ⟨hstamp, hdone⟩)
  obtain ⟨h0, h1⟩ := hi.scan_readers (Phase.showing_iff.1 hp).1 hkept.t0 hkept.dur
  refine ⟨ht, hkept, State.n_congr (hi.digitCount_isSome hidle) hkept.digitCount, h0, h1, ?_⟩
  rw [State.elapsedMs, h0, h1, step_timeMs h, ht]
  exact advance_beginStep_seq hi hidle

/-- Settles O47: the blanking is late by the invariant, and of the phases before it only the check leads to it, with an
answer that is not below the duration. -/
theorem scanGoesOnUntilTheDurationRunsOut : Obligations.ScanGoesOnUntilTheDurationRunsOut := by
  intro s t stamp d hi hr hs h0 hd h hlt
  have htime := step_timeMs h
  have hp : s.seq.phase.showing = true := by
    refine Phase.showing_iff.2 ⟨hs, ?_⟩
    by_contra hb
    have hlate := hi.blanking_late (by simpa using hb)
    simp only [State.durMs, State.stampValue, h0, hd, Option.getD_some] at hlate
    omega
  obtain ⟨ht, hkept, -, -, -, hseq⟩ := step_showing hi hr hp h
  have ht0 := hkept.t0.trans h0
  have htd := hkept.dur.trans hd
  have hgo : t.elapsedMs < t.durMs := by
    simpa [State.elapsedMs, State.stampValue, State.durMs, ht0, htd] using hlt
  obtain ⟨hidle, -, -, hdone⟩ := Phase.ne_of_showing hp
  obtain ⟨hscan, hblank⟩ : t.seq.phase.scanning = true ∧ t.seq.phase.blanking = false := by
    rw [← Phase.showing_iff, hseq]
    exact (specNextSeq_showing hp ..).resolve_right fun hover => by simp [hgo] at hover
  have hrsp : t.rspDone = false := by rw [ht, rowOf_rspDone, if_neg hdone]; rfl
  exact ⟨hscan, hblank, ht0, htd, hkept.busy.trans (hi.busy_iff.2 hidle), hrsp⟩

end Sys2Proof.Machine

namespace Sys2Proof.Machine

/-! ### A scan comes to its end -/

/-- How many steps, or moves of the clock, a scan whose duration has run out takes at most to its next check, `wait`
being what is left of the hold in progress. -/
def movesLeft (n pov wait : ℕ) (q : Seq) : ℕ :=
  match q.phase with
  | .rCheck => 1
  | .rLatchLo => (n - 1 - q.pos.val) * (pov + 21) + pov + 22
  | .rShiftSel => (n - 1 - q.pos.val) * (pov + 21) + pov + 21 - q.bitcnt.val
  | .rShiftSeg => (n - 1 - q.pos.val) * (pov + 21) + pov + 12 - q.bitcnt.val
  | .rLatchHi => (n - 1 - q.pos.val) * (pov + 21) + pov + 3
  | .rHold => (n - 1 - q.pos.val) * (pov + 21) + wait + 2
  | .idle | .encode | .rStamp | .bLatchLo | .bShift1 | .bShift2 | .bLatchHi | .respond | .done => 0

/-- A pass is longest from its first latch-low. -/
theorem movesLeft_le {n pov wait : ℕ} {q : Seq} (hpos : q.pos.val < n) (hw : wait ≤ pov) :
    movesLeft n pov wait q ≤ n * (pov + 21) + 1 := by
  have hpass : (n - 1 - q.pos.val) * (pov + 21) + (pov + 21) ≤ n * (pov + 21) := by
    rw [← Nat.succ_mul]
    exact Nat.mul_le_mul_right _ (by omega)
  unfold movesLeft
  split <;> omega

/-- Once the duration has run out, every step but one in which a hold goes on comes nearer to the check. -/
theorem movesLeft_specNextSeq {n pov wait wait' : ℕ} {ended : Bool} (check : ExitCheck) {q : Seq}
    (hq : q.phase.showing = true) (hpos : q.pos.val < n) (hn : n ≤ 8) (hwait : q.phase = .rLatchHi → wait' ≤ pov)
    (hend : q.phase = .rHold → ended = true) :
    movesLeft n pov wait' (specNextSeq false ended n check q) + 1 ≤ movesLeft n pov wait q := by
  obtain ⟨ph, pos, bc⟩ := q
  cases ph, hq using Phase.showing_cases
  case rCheck => simp [specNextSeq, movesLeft]
  case rLatchLo => simp [specNextSeq, movesLeft]
  case rShiftSel | rShiftSeg =>
    have hbc := bc.isLt
    simp only [specNextSeq]
    split <;> simp only [movesLeft, Fin.val_zero] <;> omega
  case rLatchHi =>
    have hle := hwait rfl
    simp only [specNextSeq, movesLeft]
    omega
  case rHold =>
    simp only at hpos
    simp only [specNextSeq, hend rfl, Bool.not_true, Bool.false_eq_true, if_false]
    split
    next => simp [movesLeft]
    next hmid =>
      have hlt : pos.val + 1 < n := by
        by_contra hge
        exact hmid (by rw [show pos.val + 1 = n by omega, Nat.mod_self])
      have hnext : (pos.val + 1) % n % 8 = pos.val + 1 := by rw [Nat.mod_eq_of_lt hlt, Nat.mod_eq_of_lt (by omega)]
      have hpass : (n - 1 - pos.val) * (pov + 21) = (n - 1 - (pos.val + 1)) * (pov + 21) + (pov + 21) := by
        rw [← Nat.succ_mul]
        congr 1
        omega
      cases check <;> simp only [movesLeft, Fin.val_ofNat, hnext, reduceCtorEq, if_true, if_false] <;> omega

/-- When the hold in progress began; now, where none is in progress. -/
def State.holdStart (s : State) : ℕ := s.sleepStart.getD s.timeMs

/-- What is left of the hold in progress. -/
def State.holdLeft (s : State) : ℕ := s.holdStart + s.params.povDelayMs - s.timeMs

/-- How many moves of the clock are enough for a scan to reach its blanking: the milliseconds until the duration runs
out, then the rest of the pass in progress. -/
def State.scanFuel (s : State) : ℕ :=
  if s.durMs ≤ s.elapsedMs then movesLeft s.n s.params.povDelayMs s.holdLeft s.seq
  else s.durMs - s.elapsedMs + (s.n * (s.params.povDelayMs + 21) + 1)

theorem State.Inv.holdLeft_le {s : State} (hi : s.Inv) : s.holdLeft ≤ s.params.povDelayMs := by
  unfold State.holdLeft State.holdStart
  cases h : s.sleepStart with
  | none => simp
  | some start =>
    have := hi.sleep_past start h
    simp only [Option.getD_some]
    omega

theorem State.Inv.movesLeft_le {s : State} (hi : s.Inv) (hidle : s.seq.phase ≠ .idle) :
    movesLeft s.n s.params.povDelayMs s.holdLeft s.seq ≤ s.n * (s.params.povDelayMs + 21) + 1 :=
  Machine.movesLeft_le (hi.pos_lt (hi.configured_of_busy hidle)) hi.holdLeft_le

/-- Once the duration has run out, a step in which the clock moves comes nearer to the check, and no step leads away
from it. -/
theorem movesLeft_step {s t : State} (hi : s.Inv) (hr : s.nextInput.reset = false) (hp : s.seq.phase.showing = true)
    (h : step s = .next t) (hover : t.durMs ≤ t.elapsedMs) :
    movesLeft t.n t.params.povDelayMs t.holdLeft t.seq + (if 0 < s.nextInput.advanceMs then 1 else 0) ≤
      movesLeft s.n s.params.povDelayMs s.holdLeft s.seq := by
  obtain ⟨ht, hkept, hn, -, -, hseq⟩ := step_showing hi hr hp h
  have htime := step_timeMs h
  have hc := hi.configured_of_busy (Phase.ne_of_showing hp).1
  rw [hn, hkept.params, hseq, decide_eq_false (not_lt.2 hover)]
  by_cases hwaits : s.seq.phase = .rHold ∧ s.beginStep.sleepOver = false
  · obtain ⟨hhold, hnot⟩ := hwaits
    obtain ⟨start, hs⟩ := Option.isSome_iff_exists.1 (hi.sleeping_iff.2 hhold)
    have hwait : ¬start + s.params.povDelayMs ≤ t.timeMs := by
      rw [htime]
      exact mt (sleepOver_iff (s := s.beginStep) hs).2 (by simp [hnot])
    have hts : t.sleepStart = some start := by simp [ht, rowOf_sleepStart, hhold, hnot, hs]
    simp only [specNextSeq, movesLeft, hhold, hnot, State.holdLeft, State.holdStart, hs, hts, hkept.params,
      Bool.not_false, if_true, Option.getD_some]
    split <;> omega
  · have hstep := movesLeft_specNextSeq (wait := s.holdLeft) (wait' := t.holdLeft) (pov := s.params.povDelayMs)
      (ended := s.beginStep.sleepOver) s.params.exitCheck hp (hi.pos_lt hc) (hi.n_range hc).2
      (fun _ => hkept.params ▸ (everyStepKeepsTheInvariant s t hi h).holdLeft_le)
      (fun hhold => by simpa [hhold] using hwaits)
    split <;> omega

/-- A step in which the clock moves brings a scan nearer to its blanking, and no step leads away from it. -/
theorem scanFuel_step {s t : State} (hi : s.Inv) (hr : s.nextInput.reset = false) (hp : s.seq.phase.showing = true)
    (h : step s = .next t) :
    t.scanFuel + (if 0 < s.nextInput.advanceMs then 1 else 0) ≤ s.scanFuel := by
  obtain ⟨-, hkept, hn, hstamp, hdur, hseq⟩ := step_showing hi hr hp h
  have htime := step_timeMs h
  have hpast := (hi.stamp_live (Phase.showing_iff.1 hp).1).2
  have helapsed : t.elapsedMs = s.elapsedMs + s.nextInput.advanceMs := by
    simp only [State.elapsedMs, hstamp, htime]
    omega
  by_cases hover : t.durMs ≤ t.elapsedMs
  · have hleft := movesLeft_step hi hr hp h hover
    have hmax := hi.movesLeft_le (Phase.ne_of_showing hp).1
    rw [State.scanFuel, if_pos hover]
    by_cases hwas : s.durMs ≤ s.elapsedMs
    · rwa [State.scanFuel, if_pos hwas]
    · rw [State.scanFuel, if_neg hwas]
      omega
  · have hwas : ¬s.durMs ≤ s.elapsedMs := by omega
    rw [State.scanFuel, if_neg hover, State.scanFuel, if_neg hwas, hn, hkept.params]
    split <;> omega

/-- A pass in progress has some way to go to its next check, or is there. -/
theorem movesLeft_pos (n pov wait : ℕ) {q : Seq} (hq : q.phase.showing = true) : 0 < movesLeft n pov wait q := by
  obtain ⟨ph, pos, bc⟩ := q
  have hbc := bc.isLt
  cases ph, hq using Phase.showing_cases
  all_goals simp only [movesLeft]; omega

/-- A scan that has not reached its blanking has some way to go. -/
theorem scanFuel_pos {s : State} (hp : s.seq.phase.showing = true) : 0 < s.scanFuel := by
  unfold State.scanFuel
  split
  next => exact movesLeft_pos _ _ _ hp
  next => omega

/-- What every step of a scan before its blanking keeps. -/
def KeptByScan (P : State → Prop) : Prop :=
  ∀ u v : State, u.Inv → u.nextInput.reset = false → u.seq.phase.showing = true → P u → step u = .next v → P v

/-- A scan whose clock moves as often as `scanFuel` says reaches its blanking, and what its steps keep holds there. -/
theorem run_to_blanking {P : State → Prop} (hP : KeptByScan P) (steps : ℕ) {s : State} (hi : s.Inv)
    (hr : s.NoReset) (hp : s.seq.phase.showing = true ∨ s.seq.phase = .bLatchLo) (hPs : P s)
    (hf : s.scanFuel ≤ s.clockMovesWithin steps) :
    ∃ k t, k ≤ steps ∧ runSteps k s = .next t ∧ t.Inv ∧ t.NoReset ∧ t.seq.phase = .bLatchLo ∧ P t := by
  rcases hp with hp | hp
  case inr => exact ⟨0, s, Nat.zero_le _, rfl, hi, hr, hp, hPs⟩
  induction steps generalizing s with
  | zero =>
    have hpos := scanFuel_pos hp
    simp only [State.clockMovesWithin, List.range_zero, List.countP_nil] at hf
    omega
  | succ steps ih =>
    obtain ⟨hidle, henc, -, -⟩ := Phase.ne_of_showing hp
    have h := step_advance hr.next hidle henc
    obtain ⟨-, -, -, -, -, hseq⟩ := step_showing hi hr.next hp h
    have hi' := everyStepKeepsTheInvariant s _ hi h
    have hr' := hr.tail (step_clock h).1
    have hP' := hP s _ hi hr.next hp hPs h
    rcases hseq ▸ specNextSeq_showing hp .. with hp' | ⟨-, hp'⟩
    · have hfuel := scanFuel_step hi hr.next hp h
      rw [clockMovesWithin_succ h] at hf
      obtain ⟨k, t, hk, hrun, ht⟩ := ih hi' hr' hP' (by omega) hp'
      exact ⟨k + 1, t, by omega, by rw [runSteps_succ h, hrun], ht⟩
    · exact ⟨1, _, by omega, by rw [runSteps_succ h, runSteps_zero], hi', hr', by rw [hp'], hP'⟩

/-- A block at work has its three pins (R12). -/
theorem State.Inv.pins {s : State} (hi : s.Inv) (hidle : s.seq.phase ≠ .idle) :
    ∃ lp cp dp, s.latchPin = some lp ∧ s.clockPin = some cp ∧ s.dataPin = some dp := by
  have hreg := hi.registers_valid (hi.configured_of_busy hidle)
  unfold State.registersValid at hreg
  split at hreg
  case h_1 hl hc hd _ _ => exact ⟨_, _, _, hl, hc, hd⟩
  case h_2 => cases hreg

/-- The step that stamps leaves a scan with the whole duration ahead, and takes at most one of the clock's moves. -/
theorem scanFuel_rowStamp {s : State} {d : Word} (hi : s.Inv) (hp : s.seq.phase = .rStamp) (hd : s.dur = some d) :
    (rowStamp s.beginStep).scanFuel + 1 ≤ s.scanMoves d := by
  have hn : (rowStamp s.beginStep).n = s.n := State.n_congr (hi.digitCount_isSome (by simp [hp])) rfl
  have hdur : (rowStamp s.beginStep).durMs = d.toNat := by simp [State.durMs, rowStamp, hd]
  have helapsed : (rowStamp s.beginStep).elapsedMs = 0 := by simp [State.elapsedMs, State.stampValue, rowStamp]
  have hparams : (rowStamp s.beginStep).params = s.params := rfl
  rw [State.scanFuel, hn, hdur, helapsed, hparams, State.scanMoves]
  split
  next => simp only [movesLeft, rowStamp]; omega
  next => omega

/-- A whole scan, from its stamp to its blanking; what the steps after the stamp keep holds at the blanking. -/
theorem run_scan {P : State → Prop} (hP : KeptByScan P) {s : State} {d : Word} {steps : ℕ} (hi : s.Inv)
    (hr : s.NoReset) (hp : s.seq.phase = .rStamp) (hd : s.dur = some d) (hf : s.scanMoves d ≤ s.clockMovesWithin steps)
    (hPs : P (rowStamp s.beginStep)) :
    ∃ k t, k ≤ steps ∧ runSteps k s = .next t ∧ t.Inv ∧ t.NoReset ∧ t.seq.phase = .bLatchLo ∧ P t := by
  have h : step s = .next (rowStamp s.beginStep) := step_row hp hr.next
  have hfuel := scanFuel_rowStamp hi hp hd
  cases steps with
  | zero =>
    simp only [State.clockMovesWithin, List.range_zero, List.countP_nil] at hf
    omega
  | succ steps =>
    rw [clockMovesWithin_succ h] at hf
    have henough : (rowStamp s.beginStep).scanFuel ≤ (rowStamp s.beginStep).clockMovesWithin steps := by
      split at hf <;> omega
    obtain ⟨k, t, hk, hrun, ht⟩ := run_to_blanking hP steps (everyStepKeepsTheInvariant s _ hi h) (hr.tail rfl)
      (.inl rfl) hPs henough
    exact ⟨k + 1, t, by omega, by rw [runSteps_succ h, hrun], ht⟩

/-- Settles O32: the stamp, then the run to the blanking, then the blanking. -/
theorem scanTerminatesAndBlanks : Obligations.ScanTerminatesAndBlanks := by
  intro s d steps hi hr hp hd hf
  obtain ⟨k, u, hk, hrun, hi', hr', hp', -⟩ :=
    run_scan (P := fun _ => True) (fun _ _ _ _ _ _ _ => trivial) hi hr hp hd hf trivial
  obtain ⟨lp, cp, dp, hl, hcp, hdp⟩ := hi'.pins (by simp [hp'])
  obtain ⟨t, hblank, hidle, hbusy, hdone, hsr, hout, -⟩ := blankingClearsTheChain u lp cp dp hi' hr' hp' hl hcp hdp
  exact ⟨k + 21, t, by omega, by rw [runSteps_add 21 hrun, hblank], hidle, hdone, hbusy, hsr, hout⟩

end Sys2Proof.Machine

namespace Sys2Proof.Machine

/-! ### The trace of a scan -/

/-- What a scan shows, and when: the events before it (the oldest first), the pins, the polarity, the tables and the
frame it shows with them, its stamp, its duration and the number of positions. -/
structure Scan where
  before : List Event
  latch  : Byte
  clock  : Byte
  data   : Byte
  pol    : Polarity
  params : Params
  frame  : Fin 8 → Byte
  stamp  : ℕ
  dur    : ℕ
  n      : ℕ

/-- The time each digit stays lit (R89). -/
abbrev Scan.hold (c : Scan) : ℕ := c.params.povDelayMs

/-- R90: the events of the load of a position. -/
def Scan.load (c : Scan) (i : Fin 8) : List Event :=
  loadEvents c.latch c.clock c.data (selByte c.params c.pol i) (c.frame i) c.hold

/-- The events of the first `k` loads of a pass. -/
def Scan.loads (c : Scan) (k : ℕ) : List Event := ((List.finRange 8).take k).flatMap c.load

/-- R95: the events of a scan up to the end of the passes that began with the given answers. -/
def Scan.passes (c : Scan) (answers : List ℕ) : List Event :=
  c.before ++ .stamp c.stamp :: answers.flatMap fun a => .elapsed a :: c.loads c.n

/-- The answers of a scan's checks are below its duration, and each pass before an answer has taken its holds. -/
structure Scan.Answers (c : Scan) (answers : List ℕ) : Prop where
  below  : ∀ a ∈ answers, a < c.dur
  spaced : ∀ (j : ℕ) (h : j < answers.length), j * (c.n * c.hold) ≤ answers[j]

/-- How many of a load's five events are recorded when a phase of the load begins (log entry 14). -/
def Phase.recorded : Phase → ℕ
  | .rShiftSel => 1
  | .rShiftSeg => 2
  | .rLatchHi => 3
  | .rHold => 4
  | .idle | .encode | .rStamp | .rCheck | .rLatchLo | .bLatchLo | .bShift1 | .bShift2 | .bLatchHi | .respond
  | .done => 0

/-- A block with the tables and registers of the scan `c`, which do not change while it runs; `EXIT_CHECK` is
PerPass. -/
structure Scan.Runs (c : Scan) (s : State) : Prop where
  perPass  : c.params.exitCheck = .perPass
  params   : s.params = c.params
  latchPin : s.latchPin = some c.latch
  clockPin : s.clockPin = some c.clock
  dataPin  : s.dataPin = some c.data
  polarity : s.polarity = some c.pol
  n        : s.n = c.n
  stamp    : s.t0 = some c.stamp
  dur      : s.durMs = c.dur
  frame    : ∀ i : Fin 8, i.val < c.n → s.f.get i = some (c.frame i)

/-- How far the scan `c` has come, with the answers of the passes it has finished. -/
inductive Scan.Reached (c : Scan) (answers : List ℕ) (s : State) : Prop where
  /-- About to check, between two passes. -/
  | check (phase : s.seq.phase = .rCheck) (pos : s.seq.pos = 0) (trace : s.trace.reverse = c.passes answers)
      (time : c.stamp + answers.length * (c.n * c.hold) ≤ s.timeMs)
  /-- In the load of position `POS`, in the pass that began with the answer `a`. -/
  | load (a : ℕ) (showing : s.seq.phase.showing = true) (phase : s.seq.phase ≠ .rCheck) (below : a < c.dur)
      (spaced : answers.length * (c.n * c.hold) ≤ a)
      (trace : s.trace.reverse = c.passes answers ++ .elapsed a ::
        (c.loads s.seq.pos.val ++ (c.load s.seq.pos).take s.seq.phase.recorded))
      (time : c.stamp + (answers.length * (c.n * c.hold) + s.seq.pos.val * c.hold) ≤ s.holdStart)
  /-- About to blank, after the answer that ended the scan. -/
  | ended (last : ℕ) (phase : s.seq.phase = .bLatchLo) (late : c.dur ≤ last)
      (trace : s.trace.reverse = c.passes answers ++ [.elapsed last])

/-- The record of a scan under PerPass: what every step between the stamp and the blanking keeps. -/
def Scan.Recorded (c : Scan) (s : State) : Prop := c.Runs s ∧ ∃ answers, c.Answers answers ∧ c.Reached answers s

theorem Scan.answers_nil (c : Scan) : c.Answers [] := ⟨by simp, by simp⟩

/-- A pass that has ended adds its answer. -/
theorem Scan.Answers.snoc {c : Scan} {answers : List ℕ} (h : c.Answers answers) {a : ℕ} (hlt : a < c.dur)
    (hle : answers.length * (c.n * c.hold) ≤ a) : c.Answers (answers ++ [a]) := by
  constructor
  · intro b hb
    rcases List.mem_append.1 hb with hb | hb
    · exact h.below b hb
    · simp at hb; omega
  · intro j hj
    by_cases hlast : j < answers.length
    · rw [List.getElem_append_left hlast]
      exact h.spaced j hlast
    · obtain rfl : j = answers.length := by simp at hj; omega
      simpa using hle

/-- R97 (b): where a pass takes time there are at most `ceil(DUR / (N * POV_DELAY_MS))` of them. -/
theorem Scan.Answers.length_le {c : Scan} {answers : List ℕ} (h : c.Answers answers) (hpos : 0 < c.n * c.hold) :
    answers.length ≤ (c.dur + c.n * c.hold - 1) / (c.n * c.hold) := by
  rw [Nat.le_div_iff_mul_le hpos]
  cases hlen : answers.length with
  | zero => omega
  | succ j =>
    have hj : j < answers.length := by omega
    have hle := h.spaced j hj
    have hlt := h.below _ (List.getElem_mem hj)
    rw [Nat.succ_mul]
    omega

theorem Scan.passes_snoc (c : Scan) (answers : List ℕ) (a : ℕ) :
    c.passes (answers ++ [a]) = c.passes answers ++ .elapsed a :: c.loads c.n := by
  simp [Scan.passes]

/-- R95: the passes and the answer that ends them are the whole scan. -/
theorem Scan.passes_last (c : Scan) (answers : List ℕ) (last : ℕ) :
    c.passes answers ++ [.elapsed last] = c.before ++ scanEvents c.stamp answers last c.n c.load := by
  simp [Scan.passes, Scan.loads, scanEvents]

theorem Scan.loads_succ (c : Scan) (i : Fin 8) : c.loads (i.val + 1) = c.loads i.val ++ c.load i := by
  simp [Scan.loads, List.take_add_one]

/-- A step of the scan keeps its registers. -/
theorem Scan.Runs.kept {c : Scan} {s t : State} (hc : c.Runs s) (hk : s.Kept t) (hn : t.n = s.n)
    (hd : t.durMs = s.durMs) : c.Runs t where
  perPass := hc.perPass
  params := hk.params.trans hc.params
  latchPin := hk.latchPin.trans hc.latchPin
  clockPin := hk.clockPin.trans hc.clockPin
  dataPin := hk.dataPin.trans hc.dataPin
  polarity := hk.polarity.trans hc.polarity
  n := hn.trans hc.n
  stamp := hk.t0.trans hc.stamp
  dur := hd.trans hc.dur
  frame := hk.f ▸ hc.frame

/-- Along the table a load goes on, at its position, until its hold ends. -/
theorem specNextSeq_load {q : Seq} (hp : q.phase.showing = true) (hne : q.phase ≠ .rCheck) {ended : Bool}
    (hends : q.phase = .rHold → ended = false) (go : Bool) (n : ℕ) (check : ExitCheck) :
    (specNextSeq go ended n check q).pos = q.pos ∧ (specNextSeq go ended n check q).phase.showing = true ∧
      (specNextSeq go ended n check q).phase ≠ .rCheck := by
  obtain ⟨ph, pos, bc⟩ := q
  cases ph, hp using Phase.showing_cases
  case rCheck => exact absurd rfl hne
  case rLatchLo | rLatchHi => exact ⟨rfl, rfl, nofun⟩
  case rShiftSel | rShiftSeg =>
    simp only [specNextSeq]
    split <;> exact ⟨rfl, rfl, nofun⟩
  case rHold =>
    obtain rfl := hends rfl
    exact ⟨rfl, rfl, nofun⟩

/-- A step in a load before its hold ends records what the load has next, if a byte or the hold does not just go on. -/
theorem Scan.Runs.step_trace {c : Scan} {s t : State} (hc : c.Runs s) (hi : s.Inv) (hr : s.nextInput.reset = false)
    (hp : s.seq.phase.showing = true) (hne : s.seq.phase ≠ .rCheck)
    (hends : s.seq.phase = .rHold → s.beginStep.sleepOver = false) (h : step s = .next t) :
    ∃ new, t.trace.reverse = s.trace.reverse ++ new ∧
      (c.load s.seq.pos).take t.seq.phase.recorded = (c.load s.seq.pos).take s.seq.phase.recorded ++ new := by
  have hpos : s.seq.pos.val < c.n := hc.n ▸ hi.pos_lt (hi.configured_of_busy (Phase.ne_of_showing hp).1)
  have hf := hc.frame _ hpos
  obtain ⟨-, hparams, hl, hcp, hd, hpol, -, -, -, -⟩ := hc
  obtain ⟨ht, -, -, -, -, hseq⟩ := step_showing hi hr hp h
  have htrace := congrArg State.trace ht
  rw [rowOf_trace] at htrace
  generalize hph : s.seq.phase = ph at hp hne hends ⊢
  cases ph, hp using Phase.showing_cases
  case rCheck => exact absurd rfl hne
  case rLatchLo =>
    exact ⟨[.setLevel .latch c.latch .low], by simp [htrace, hph, State.pin, hl],
      by simp [hseq, specNextSeq, hph, Phase.recorded, Scan.load, loadEvents]⟩
  case rShiftSel =>
    by_cases hb : s.seq.bitcnt.val < 8
    · exact ⟨[], by simp [htrace, hph, hb], by simp [hseq, specNextSeq, hph, hb, Phase.recorded]⟩
    · exact ⟨[.shiftOut c.data c.clock .lsbFirst (selByte c.params c.pol s.seq.pos)],
        by simp [htrace, hph, hb, State.pin, State.pol, hcp, hd, hpol, hparams],
        by simp [hseq, specNextSeq, hph, hb, Phase.recorded, Scan.load, loadEvents]⟩
  case rShiftSeg =>
    by_cases hb : s.seq.bitcnt.val < 8
    · exact ⟨[], by simp [htrace, hph, hb], by simp [hseq, specNextSeq, hph, hb, Phase.recorded]⟩
    · exact ⟨[.shiftOut c.data c.clock .msbFirst (c.frame s.seq.pos)],
        by simp [htrace, hph, hb, State.pin, State.frameByte, hcp, hd, hf],
        by simp [hseq, specNextSeq, hph, hb, Phase.recorded, Scan.load, loadEvents]⟩
  case rLatchHi =>
    exact ⟨[.setLevel .latch c.latch .high], by simp [htrace, hph, State.pin, hl],
      by simp [hseq, specNextSeq, hph, Phase.recorded, Scan.load, loadEvents]⟩
  case rHold =>
    have hnot := hends rfl
    exact ⟨[], by simp [htrace, hph, hnot], by simp [hseq, specNextSeq, hph, hnot, Phase.recorded]⟩

/-- Until a hold ends, what it counts from does not go back. -/
theorem holdStart_step {s t : State} (hi : s.Inv) (hr : s.nextInput.reset = false) (hp : s.seq.phase.showing = true)
    (hends : s.seq.phase = .rHold → s.beginStep.sleepOver = false) (h : step s = .next t) :
    s.holdStart ≤ t.holdStart := by
  have htime := step_timeMs h
  have hsleep := congrArg State.sleepStart (step_showing hi hr hp h).1
  rw [rowOf_sleepStart] at hsleep
  by_cases hhold : s.seq.phase = .rHold
  · simp only [hhold, hends hhold, reduceCtorEq, if_false, Bool.false_eq_true, and_false] at hsleep
    obtain ⟨start, hs⟩ := Option.isSome_iff_exists.1 (hi.sleeping_iff.2 hhold)
    simp [State.holdStart, hsleep, hs]
  · have hs : s.sleepStart = none := by simpa [hhold] using hi.sleeping_iff
    have ht : t.holdStart = t.timeMs := by
      by_cases hhi : s.seq.phase = .rLatchHi <;> simp [State.holdStart, hsleep, hhi, hhold, hs, htime]
    rw [ht, htime, State.holdStart, hs]
    simp

/-- The step in which a hold ends: its event is recorded, the clock has moved on by the hold time, and the next load or
the check follows (under PerPass). -/
theorem Scan.Runs.step_holdEnd {c : Scan} {s t : State} (hc : c.Runs s) (hi : s.Inv)
    (hr : s.nextInput.reset = false) (hhold : s.seq.phase = .rHold) (hend : s.beginStep.sleepOver = true)
    (h : step s = .next t) :
    t.trace.reverse = s.trace.reverse ++ [.sleep c.hold] ∧ s.holdStart + c.hold ≤ t.timeMs ∧ t.sleepStart = none ∧
      t.seq = if s.seq.pos.val + 1 = c.n then ⟨.rCheck, 0, 0⟩
        else ⟨.rLatchLo, Fin.ofNat 8 (s.seq.pos.val + 1), 0⟩ := by
  have hcn := hi.configured_of_busy (by simp [hhold])
  have hpos := hi.pos_lt hcn
  obtain ⟨ht, -, -, -, -, hseq⟩ := step_showing hi hr (by rw [hhold]; rfl) h
  obtain ⟨start, hs⟩ := Option.isSome_iff_exists.1 (hi.sleeping_iff.2 hhold)
  have hover := (sleepOver_iff (s := s.beginStep) hs).1 hend
  refine ⟨?trace, ?time, ?sleep, ?seq⟩
  case trace => simp [ht, rowOf_trace, hhold, hend, hc.params]
  case time =>
    rw [State.holdStart, hs, step_timeMs h, Scan.hold, ← hc.params]
    exact hover
  case sleep => simp [ht, rowOf_sleepStart, hhold, hend]
  case seq =>
    rw [hc.n] at hpos hseq
    simp only [hseq, specNextSeq, hhold, hend, hc.params, hc.perPass, Bool.not_true, Bool.false_eq_true,
      if_false, if_true]
    by_cases hlast : s.seq.pos.val + 1 = c.n
    · simp [hlast]
    · rw [Nat.mod_eq_of_lt (by omega), if_neg (by omega), if_neg hlast]

/-- The step that checks records its answer, and goes on to the first load exactly where it is below the duration. -/
theorem Scan.Reached.step_check {c : Scan} {answers : List ℕ} {s t : State} (hc : c.Runs s) (hi : s.Inv)
    (hr : s.nextInput.reset = false) (hp : s.seq.phase = .rCheck) (hpos : s.seq.pos = 0)
    (htrace : s.trace.reverse = c.passes answers) (hle : c.stamp + answers.length * (c.n * c.hold) ≤ s.timeMs)
    (h : step s = .next t) : c.Reached answers t := by
  obtain ⟨ht, hkept, hn, -, hdur, hseq⟩ := step_showing hi hr (by rw [hp]; rfl) h
  have htime := step_timeMs h
  have helapsed : t.elapsedMs = t.timeMs - c.stamp := by
    simp [State.elapsedMs, State.stampValue, (hc.kept hkept hn hdur).stamp]
  have htrace' : t.trace.reverse = c.passes answers ++ [.elapsed t.elapsedMs] := by
    rw [helapsed, ht, rowOf_trace, hp]
    simp [State.elapsedMs, State.stampValue, hc.stamp, htrace]
  have hsleep : t.sleepStart = none := by
    simpa [ht, rowOf_sleepStart, hp] using hi.sleeping_iff
  by_cases hgo : t.elapsedMs < c.dur
  · have hseq' : t.seq = ⟨.rLatchLo, 0, 0⟩ := by
      simp [hseq, specNextSeq, hp, hpos, hdur.trans hc.dur, hgo]
    refine .load t.elapsedMs (by rw [hseq']; rfl) (by rw [hseq']; nofun) hgo (by omega) ?_ ?_
    · rw [htrace', hseq']
      simp [Scan.loads, Phase.recorded]
    · simp only [hseq', State.holdStart, hsleep, Option.getD_none, Fin.val_zero]
      omega
  · have hseq' : t.seq = ⟨.bLatchLo, 0, 0⟩ := by
      simp [hseq, specNextSeq, hp, hpos, hdur.trans hc.dur, hgo]
    exact .ended t.elapsedMs (by rw [hseq']) (by omega) htrace'

/-- The step that ends a hold ends the load, and with the last load of a pass the pass. -/
theorem Scan.Reached.step_holdEnd {c : Scan} {answers : List ℕ} {s t : State} (hc : c.Runs s) (hi : s.Inv)
    (hr : s.nextInput.reset = false) (hhold : s.seq.phase = .rHold) (hend : s.beginStep.sleepOver = true)
    (hanswers : c.Answers answers) {a : ℕ} (hlt : a < c.dur) (hle : answers.length * (c.n * c.hold) ≤ a)
    (htrace : s.trace.reverse = c.passes answers ++ .elapsed a ::
      (c.loads s.seq.pos.val ++ (c.load s.seq.pos).take s.seq.phase.recorded))
    (hstart : c.stamp + (answers.length * (c.n * c.hold) + s.seq.pos.val * c.hold) ≤ s.holdStart)
    (h : step s = .next t) : ∃ answers', c.Answers answers' ∧ c.Reached answers' t := by
  have hpos : s.seq.pos.val < c.n := hc.n ▸ hi.pos_lt (hi.configured_of_busy (by simp [hhold]))
  have hn8 : c.n ≤ 8 := hc.n ▸ (hi.n_range (hi.configured_of_busy (by simp [hhold]))).2
  obtain ⟨ttrace, ttime, tsleep, tseq⟩ := hc.step_holdEnd hi hr hhold hend h
  have hwhole : (c.load s.seq.pos).take s.seq.phase.recorded ++ [.sleep c.hold] = c.load s.seq.pos := by
    simp [Scan.load, hhold, Phase.recorded, loadEvents]
  have htrace' : t.trace.reverse = c.passes answers ++ .elapsed a :: c.loads (s.seq.pos.val + 1) := by
    rw [ttrace, htrace, Scan.loads_succ, List.append_assoc, List.cons_append, List.append_assoc, hwhole]
  have hposns : (s.seq.pos.val + 1) * c.hold = s.seq.pos.val * c.hold + c.hold := Nat.succ_mul ..
  by_cases hlast : s.seq.pos.val + 1 = c.n
  · rw [if_pos hlast] at tseq
    refine ⟨_, hanswers.snoc hlt hle, .check (by rw [tseq]) (by rw [tseq]) ?_ ?_⟩
    · rw [htrace', Scan.passes_snoc, hlast]
    · rw [List.length_append, List.length_singleton, Nat.succ_mul]
      rw [hlast] at hposns
      omega
  · rw [if_neg hlast] at tseq
    have hval : (Fin.ofNat 8 (s.seq.pos.val + 1)).val = s.seq.pos.val + 1 := by
      rw [Fin.val_ofNat, Nat.mod_eq_of_lt (by omega)]
    refine ⟨_, hanswers, .load a (by rw [tseq]; rfl) (by rw [tseq]; nofun) hlt hle ?_ ?_⟩
    · rw [htrace', tseq, hval]
      simp [Phase.recorded]
    · rw [State.holdStart, tsleep, tseq, hval, hposns, Option.getD_none]
      omega

/-- Every step between the stamp and the blanking keeps the record. -/
theorem Scan.recorded_keptByScan (c : Scan) : KeptByScan c.Recorded := by
  rintro s t hi hr hp ⟨hruns, answers, hanswers, hreached⟩ h
  obtain ⟨-, hkept, hn, -, hdur, hseq⟩ := step_showing hi hr hp h
  refine ⟨hruns.kept hkept hn hdur, ?_⟩
  cases hreached with
  | check phase pos trace time => exact ⟨answers, hanswers, .step_check hruns hi hr phase pos trace time h⟩
  | load a _ phase below spaced trace time =>
    by_cases hend : s.seq.phase = .rHold ∧ s.beginStep.sleepOver = true
    · exact Scan.Reached.step_holdEnd hruns hi hr hend.1 hend.2 hanswers below spaced trace time h
    · have hends : s.seq.phase = .rHold → s.beginStep.sleepOver = false := by simpa using hend
      obtain ⟨tpos, tshowing, tphase⟩ := hseq ▸ specNextSeq_load hp phase hends ..
      obtain ⟨new, ttrace, ttake⟩ := hruns.step_trace hi hr hp phase hends h
      refine ⟨answers, hanswers, .load a tshowing tphase below spaced ?_ ?_⟩
      · rw [ttrace, trace, tpos, ttake]
        simp
      · rw [tpos]
        exact time.trans (holdStart_step hi hr hp hends h)
  | ended last phase => simp [phase, Phase.showing, Phase.scanning, Phase.blanking] at hp

/-- The scan a block at its stamp is about to run. -/
def State.scan (lp cp dp : Byte) (pol : Polarity) (d : Word) (s : State) : Scan where
  before := s.trace.reverse
  latch := lp
  clock := cp
  data := dp
  pol := pol
  params := s.params
  frame := s.frameByte
  stamp := s.timeMs + s.nextInput.advanceMs
  dur := d.toNat
  n := s.n

/-- The stamp begins the record. -/
theorem rowStamp_recorded {s : State} {d : Word} {lp cp dp : Byte} {pol : Polarity} (hi : s.Inv)
    (hp : s.seq.phase = .rStamp) (hd : s.dur = some d) (hcheck : s.params.exitCheck = .perPass)
    (hl : s.latchPin = some lp) (hcp : s.clockPin = some cp) (hdp : s.dataPin = some dp)
    (hpol : s.polarity = some pol) : (s.scan lp cp dp pol d).Recorded (rowStamp s.beginStep) := by
  have hn : (rowStamp s.beginStep).n = s.n := State.n_congr (hi.digitCount_isSome (by simp [hp])) rfl
  have hdur : (rowStamp s.beginStep).durMs = d.toNat := by simp [State.durMs, rowStamp, hd]
  have hframe (i : Fin 8) (hlt : i.val < s.n) : s.f.get i = some (s.frameByte i) := by
    obtain ⟨b, hb⟩ := Option.isSome_iff_exists.1 (hi.frame_live (.inl hp) i hlt)
    simp [State.frameByte, hb]
  refine ⟨⟨hcheck, rfl, hl, hcp, hdp, hpol, hn, rfl, hdur, hframe⟩, [], Scan.answers_nil _, ?_⟩
  refine .check rfl rfl ?_ ?_
  · simp [rowStamp, Scan.passes, State.scan]
  · simp [rowStamp, State.scan]

/-- Settles O33: the stamp begins the record of the scan, every step until the blanking keeps it, and the blanking and
the completion add their events. -/
theorem scanEmitsItsTrace : Obligations.ScanEmitsItsTrace := by
  intro s d lp cp dp pol steps hi hr hp hd hf hcheck hl hcp hdp hpol
  obtain ⟨k, u, hk, hrun, hi', hr', hp', hruns, answers, hanswers, hreached⟩ :=
    run_scan (s.scan lp cp dp pol d).recorded_keptByScan hi hr hp hd hf
      (rowStamp_recorded hi hp hd hcheck hl hcp hdp hpol)
  cases hreached with
  | check phase => simp [hp'] at phase
  | load _ showing => rw [hp'] at showing; cases showing
  | ended last _ late trace =>
    obtain ⟨t, hblank, hidle, -, hdone, -, -, -, -, -, -, -, -, -, htrace⟩ :=
      blankingClearsTheChain u lp cp dp hi' hr' hp' hruns.latchPin hruns.clockPin hruns.dataPin
    refine ⟨k + 21, t, (s.scan lp cp dp pol d).stamp, answers, last, by omega, by rw [runSteps_add 21 hrun, hblank],
      hidle, hdone, Nat.le_add_right .., hanswers.below, late, hanswers.spaced, hanswers.length_le, ?_⟩
    rw [Scan.passes_last] at trace
    rw [htrace]
    simp only [List.reverse_cons, trace, List.append_assoc]
    rfl

end Sys2Proof.Machine

namespace Sys2Proof.Machine

/-! ### Single steps of the scan -/

/-- An idle block without a command waits. -/
theorem step_wait {s : State} (hr : s.nextInput.reset = false) (hp : s.seq.phase = .idle) (hh : s.hostProgram = []) :
    step s = .next s.beginStep := by
  simp [step, wholeStep, hr, microStep, hp, rowIdle, State.fetch, hh]

/-- A waiting, configured block takes a RENDER of N bytes (R85). -/
theorem exec_render {frame : List Byte} (dur : Word) {s : State} (ha : s.accepting = true) (hc : s.configured = true)
    (hn : frame.length = s.n) : exec (.render frame dur) s = .next (s.startRender frame dur) := by
  simp [exec, execRender, ha, hc, hn]

/-- Settles O5: the fetch reads the packet on the port, which decodes to `i`. -/
theorem stepTakesPresentedCommand : Obligations.StepTakesPresentedCommand := by
  intro s p rest i hw hh hd
  rw [step_fetch hw hh, hd]
  rfl

/-- Settles O6: one of the three kinds of step for each phase. -/
theorem stepRunsTheSequencer : Obligations.StepRunsTheSequencer := by
  intro s hr
  exact ⟨fun _ => step_encode hr, step_advance hr, step_wait hr⟩

/-- Settles O9: the acceptance of a command that encodes. -/
theorem encodingCommandsAreAccepted : Obligations.EncodingCommandsAreAccepted := by
  intro i s hp hb hc he
  exact exec_accept ((accepting_iff s).2 ⟨hp, hb⟩) hc he

/-- Settles O25: RENDER is taken, and its frame written byte by byte. -/
theorem renderStartsTheScan : Obligations.RenderStartsTheScan := by
  intro frame dur s hp hb hc hn
  exact ⟨_, exec_render dur ((accepting_iff s).2 ⟨hp, hb⟩) hc hn, rfl, writeFrame_get s.f frame⟩

/-- Settles O27: the rows `R_STAMP` and `R_CHECK` after the clock agent's move. -/
theorem scanChecksElapsedStrictly : Obligations.ScanChecksElapsedStrictly := by
  intro s hr
  constructor
  · intro hp
    exact ⟨_, step_row hp hr, rfl, rfl, rfl, rfl, rfl, rfl, rfl, rfl, rfl, rfl, rfl⟩
  · intro ts d hp h0 hd
    have helapsed : s.beginStep.elapsedMs = s.timeMs + s.nextInput.advanceMs - ts := by
      simp [State.elapsedMs, State.stampValue, h0]
    have hdur : s.beginStep.durMs = d.toNat := by simp [State.durMs, hd]
    refine ⟨_, step_row hp hr, ?_⟩
    simp only [rowOf, rowCheck, helapsed, hdur]
    refine ⟨rfl, rfl, ?pass, ?blank, rfl, rfl, rfl, rfl, rfl, rfl, rfl, rfl⟩
    case pass => simp
    case blank => simp

/-- A hold is followed by a load or a check. -/
theorem afterHold_ne_rHold (check : ExitCheck) (pos : Fin 8) : afterHold check pos ≠ .rHold := by
  unfold afterHold
  split
  · nofun
  · cases check <;> nofun

/-- Settles O28: the row `R_LATCH_HI` begins the hold, and the row `R_HOLD` waits for the clock and ends it. -/
theorem holdKeepsTheDigitLit : Obligations.HoldKeepsTheDigitLit := by
  intro s hr
  constructor
  · intro hp
    exact ⟨_, step_row hp hr, rfl, rfl, rfl, rfl⟩
  · intro start hp hs
    have hover : s.beginStep.sleepOver = true ↔ start + s.params.povDelayMs ≤ s.timeMs + s.nextInput.advanceMs :=
      sleepOver_iff (s := s.beginStep) hs
    have hstep := step_row hp hr
    constructor
    · intro hlt
      have hnot : ¬s.beginStep.sleepOver = true := mt hover.1 (by omega)
      rw [hstep, rowOf, rowHold, if_neg hnot]
    · intro hle
      rw [rowOf, rowHold, if_pos (hover.2 hle)] at hstep
      exact ⟨_, hstep, afterHold_ne_rHold _ _, rfl, rfl, rfl, rfl, rfl, rfl, rfl, rfl, rfl, rfl, rfl⟩

/-- Settles O29: the stamp, then a check whose answer is not below zero. -/
theorem zeroDurationScansNothing : Obligations.ZeroDurationScansNothing := by
  intro s hp hd hr
  have hstamp : step s = .next (rowStamp s.beginStep) := step_row hp hr.next
  have hcheck : step (rowStamp s.beginStep) = .next (rowCheck (rowStamp s.beginStep).beginStep) :=
    step_row (ph := .rCheck) rfl (hr.tail rfl).next
  have hdur : (rowStamp s.beginStep).beginStep.durMs = 0 := by simp [State.durMs, rowStamp, hd]
  have hrun : runSteps 2 s = .next (rowCheck (rowStamp s.beginStep).beginStep) := by
    rw [runSteps_succ hstamp, runSteps_succ hcheck, runSteps_zero]
  rw [rowCheck, hdur, if_neg (Nat.not_lt_zero _)] at hrun
  refine ⟨_, (rowStamp s.beginStep).beginStep.elapsedMs, s.beginStep.timeMs, hrun, ?_⟩
  simp [rowStamp]

/-! ### Edges on the lines -/

/-- Settles O35: the chain's answer to each edge, stage by stage. -/
theorem chainReactsToRisingEdges : Obligations.ChainReactsToRisingEdges := by
  intro s level
  refine ⟨?shift, ?noShift, rfl, rfl, ?commit, ?noCommit, rfl, rfl⟩
  case shift =>
    intro hlow
    have hsr : (s.drive .clock .high).sr = shiftIn (decide (s.data = .high)) s.sr := by simp [hlow]
    rw [hsr]
    exact ⟨by simp [shiftIn], fun k => by simp [Vector.get_eq_getElem, shiftIn_getElem]⟩
  case noShift =>
    intro hno
    simp only [State.drive_clock_sr]
    exact if_neg (by tauto)
  case commit =>
    intro hlow
    simp [hlow]
  case noCommit =>
    intro hno
    simp only [State.drive_latch_out]
    exact if_neg (by tauto)

/-! ### The select byte -/

/-- The one set bit of a one-hot byte. -/
theorem getLsbD_of_isOneHot {b : Byte} (h : isOneHot b = true) :
    ∃ k : Fin 8, ∀ j : Fin 8, b.getLsbD j.val = decide (j = k) := by
  have hbit : ∀ k j : Fin 8, (1#8 <<< k.val).getLsbD j.val = decide (j = k) := by decide
  obtain ⟨k, rfl⟩ := of_decide_eq_true h
  exact ⟨k, hbit k⟩

/-- Settles O39: the one set bit of the table's entry is the active one, and inversion makes it the one clear bit. -/
theorem selectByteHasOneActiveBit : Obligations.SelectByteHasOneActiveBit := by
  constructor
  · intro p i
    refine ⟨rfl, rfl, fun hp => ?_⟩
    obtain ⟨k, hk⟩ := getLsbD_of_isOneHot (hp.sel_one_hot i)
    refine ⟨k, fun j => ⟨?_, hk j⟩⟩
    simp only [selByte, BitVec.getLsbD_not, hk j]
    simp
  · intro d
    simp only [selByte, selEntry_defaultParams]
    decide

end Sys2Proof.Machine

namespace Sys2Proof.Machine

/-! ### A PRINT as a RENDER -/

/-- A PRINT `i` whose frame is that of the encode-only command `c` is accepted, and its encode step leads to the state
that RENDER of that frame leads to: the operand latch it filled is empty again. -/
theorem exec_print_eq_render {c i : Instr} {dur : Word} {s e : State} (ha : s.accepting = true)
    (hconf : s.configured = true) (hl : s.latched = none) (h8 : s.n ≤ 8) (hc : encodesInContract c = true)
    (hi : encodesInContract i = true) (hf : encodedFrame i s = ((encodedFrame c s).1, some dur))
    (h : exec c (s.accept c) = .next e) :
    ∃ a, exec i s = .next a ∧ exec i a = exec (.render e.frame dur) s := by
  have haccepted (j : Instr) : encodedFrame j (s.accept j) = encodedFrame j s := encodedFrame_congr j rfl rfl rfl
  have hlen : (encodedFrame c s).1.length = s.n := encodedFrame_length c s hc
  have hframe : e.frame = (encodedFrame c s).1 := by
    rw [exec_encode rfl rfl hc, haccepted] at h
    cases h
    exact frame_finishEncode _ hlen h8
  have hstate : (s.accept i).finishEncode (encodedFrame c s).1 (some dur) = s.startRender (encodedFrame c s).1 dur := by
    simp only [State.finishEncode, State.accept, State.startRender, hl]
  refine ⟨s.accept i, exec_accept ha hconf hi, ?_⟩
  rw [exec_encode rfl rfl hi, haccepted, hf, hframe, hstate, exec_render dur ha hconf hlen]

/-- Settles O24: each PRINT has the frame of its encode-only command. -/
theorem printIsRenderOfItsEncodedFrame : Obligations.PrintIsRenderOfItsEncodedFrame := by
  intro s dur hp hb hconf hl h8
  have ha : s.accepting = true := (accepting_iff s).2 ⟨hp, hb⟩
  refine ⟨fun v e h => ?_, fun w places e hfinite h => ?_, fun text e h => ?_⟩
  · exact exec_print_eq_render ha hconf hl h8 rfl rfl rfl h
  · exact exec_print_eq_render (c := .encd w places) ha hconf hl h8 hfinite hfinite rfl h
  · exact exec_print_eq_render ha hconf hl h8 rfl rfl rfl h

/-- Settles O17: the encode step of a PRINT, slot by slot as for its encode-only command. -/
theorem printsWriteFrameAndDuration : Obligations.PrintsWriteFrameAndDuration := by
  intro dur s hp
  refine ⟨fun v hl => ?_, fun w places hl hfinite => ?_, fun text hl => ?_⟩
  · exact exec_encode_writes hp hl rfl fun k hk => layout_get _ _ _ _ _ k hk
  · exact exec_encode_writes hp hl hfinite fun k hk => decimalFrame_get _ w _ _ k hk
  · exact exec_encode_writes hp hl rfl fun k hk => textFrame_get _ text _ k hk

/-! ### What a busy or an unconfigured block does with a command -/

/-- Settles O12: of the steps that go on, the one that takes a packet is taken by a block that is not busy. -/
theorem busyBlockTakesNoPacket : Obligations.BusyBlockTakesNoPacket := by
  intro s t hb h
  rcases step_cases h with ⟨-, rfl⟩ | ⟨-, -, rfl⟩ | ⟨-, -, hfree, -⟩ | ⟨-, -, _, -, h⟩ | ⟨-, -, -, rfl⟩
  · rfl
  · rfl
  · simp [hb] at hfree
  · exact (exec_ports h).1
  · exact rowOf_hostProgram _ _

/-- A command is CONFIG, RENDER, or one call of what the six that encode share. -/
theorem exec_forms (i : Instr) (s : State) :
    (∃ latch clock data pol digits, i = .config latch clock data pol digits) ∨ (∃ frame dur, i = .render frame dur) ∨
    ∃ stop frame dur, exec i s = runEncoder i stop frame dur s := by
  cases i with
  | config => exact .inl ⟨_, _, _, _, _, rfl⟩
  | render => exact .inr (.inl ⟨_, _, rfl⟩)
  | enci | enct | printi | printt => exact .inr (.inr ⟨none, _, _, rfl⟩)
  | encd | printd => exact .inr (.inr ⟨_, _, _, rfl⟩)

/-- What the six commands that encode share where they are not accepted: nothing happens (R112). -/
theorem runEncoder_notAccepted {i : Instr} (stop : Option Refusal) (frame : List Byte) (dur : Option Word) {s : State}
    (ha : ¬s.accepting = true) (hl : ¬(s.seq.phase = .encode ∧ s.latched = some i)) :
    runEncoder i stop frame dur s = .next s := by
  unfold runEncoder
  rw [if_neg ha, if_neg hl]

/-- What they share before CONFIG: the refusal, whatever the operand (R112 (c), U3). -/
theorem runEncoder_unconfigured (i : Instr) (stop : Option Refusal) (frame : List Byte) (dur : Option Word)
    {s : State} (ha : s.accepting = true) (hc : ¬s.configured = true) :
    runEncoder i stop frame dur s = .refused .notConfigured := by
  unfold runEncoder
  rw [if_pos ha, if_neg hc]

/-- Settles O11: a busy block does not accept, and the command is not the latched one. -/
theorem commandNotAcceptedHasNoEffect : Obligations.CommandNotAcceptedHasNoEffect := by
  intro i s hb hl
  have ha : ¬s.accepting = true := by simp [accepting_iff, hb]
  rcases exec_forms i s with ⟨_, _, _, _, _, rfl⟩ | ⟨_, _, rfl⟩ | ⟨stop, frame, dur, h⟩
  · exact if_neg ha
  · exact if_neg ha
  · rw [h, runEncoder_notAccepted stop frame dur ha hl]

/-- Settles O10: `CONFIGURED` is asked before anything about the operands. -/
theorem unconfiguredBlockRefuses : Obligations.UnconfiguredBlockRefuses := by
  intro i s hp hb hconf hi
  have ha : s.accepting = true := (accepting_iff s).2 ⟨hp, hb⟩
  have hc : ¬s.configured = true := by simp [hconf]
  rcases exec_forms i s with ⟨latch, clock, data, pol, digits, rfl⟩ | ⟨_, _, rfl⟩ | ⟨stop, frame, dur, h⟩
  · exact absurd rfl (hi latch clock data pol digits)
  · rw [exec, execRender, if_pos ha, if_neg hc]
  · rw [h, runEncoder_unconfigured i stop frame dur ha hc]

/-! ### CONFIG -/

theorem digitsInContract_iff (digits : Byte) :
    digitsInContract digits = true ↔ 1 ≤ digits.toNat ∧ digits.toNat ≤ 8 := by
  simp [digitsInContract]

theorem pinsDistinct_iff (latch clock data : Byte) :
    pinsDistinct latch clock data = true ↔ latch ≠ clock ∧ latch ≠ data ∧ clock ≠ data := by
  simp [pinsDistinct, and_assoc]

/-- The digit counts of the contract fit the four bits of `DIGIT_COUNT` (R12). -/
theorem toNat_digitCountOperand {digits : Byte} (h : digits.toNat ≤ 8) :
    (digitCountOperand digits).toNat = digits.toNat := by
  simp [digitCountOperand, Nat.mod_eq_of_lt (show digits.toNat < 16 by omega)]

/-- CONFIG offered to a waiting block: the three checks, in the model's order (log entry 16). -/
theorem exec_config (latch clock data : Byte) (pol : Polarity) (digits : Byte) {s : State} (ha : s.accepting = true) :
    exec (.config latch clock data pol digits) s =
      if s.configured then .refused .alreadyConfigured
      else if digitsInContract digits then
        if pinsDistinct latch clock data then .next (s.configure latch clock data pol digits)
        else .refused .pinsNotDistinct
      else .refused .digitsOutOfRange := by
  rw [exec, execConfig, if_pos ha]

/-- Settles O8: one clause for each check that fails. -/
theorem configOutsideTheContractIsRefused : Obligations.ConfigOutsideTheContractIsRefused := by
  intro latch clock data pol digits s hp hb
  rw [exec_config latch clock data pol digits ((accepting_iff s).2 ⟨hp, hb⟩)]
  refine ⟨fun hc => if_pos hc, fun hc hd => ?digits, fun hc h1 h8 hpins => ?pins⟩
  case digits =>
    have hd' : ¬digitsInContract digits = true := by rw [digitsInContract_iff]; omega
    simp [hc, hd']
  case pins =>
    have hd' : digitsInContract digits = true := (digitsInContract_iff digits).2 ⟨h1, h8⟩
    have hpins' : ¬pinsDistinct latch clock data = true := by rw [pinsDistinct_iff]; tauto
    simp [hc, hd', hpins']

/-- Settles O7: the three checks pass, CONFIG's writes are one update, and its completion is the row `DONE`. -/
theorem configWritesTheConfiguration : Obligations.ConfigWritesTheConfiguration := by
  intro latch clock data pol digits s hp hb hc h1 h8 hlc hld hcd
  have hd : digitsInContract digits = true := (digitsInContract_iff digits).2 ⟨h1, h8⟩
  have hpins : pinsDistinct latch clock data = true := (pinsDistinct_iff ..).2 ⟨hlc, hld, hcd⟩
  refine ⟨s.configure latch clock data pol digits, ?_, configure_eq .., ?_, rfl⟩
  · simp [exec_config latch clock data pol digits ((accepting_iff s).2 ⟨hp, hb⟩), hc, hd, hpins]
  · rw [State.n_of_digitCount (n := digitCountOperand digits) rfl, toNat_digitCountOperand h8]

end Sys2Proof.Machine

namespace Sys2Proof.Machine

/-! ### Reset -/

/-- A step with `RESET` asserted goes on whatever was running (R135). -/
theorem step_reset {s : State} (hr : s.nextInput.reset = true) : step s = .next s.beginStep.assertReset :=
  if_pos hr

theorem State.assertReset_blockReset (s : State) : s.assertReset.BlockReset := by simp [State.BlockReset]

/-- `RESET` asserted in the state right after reset has nothing left to change. -/
theorem State.assertReset_reset : State.reset.assertReset = State.reset := rfl

/-- Settles O41: the step is the reset of the state the clock agent has moved, and the state right after reset is the
reset of itself. -/
theorem resetAbandonsWhateverRuns : Obligations.ResetAbandonsWhateverRuns := by
  have hpowerUp : State.reset.BlockReset := State.assertReset_reset ▸ State.assertReset_blockReset State.reset
  refine ⟨fun s hr => ⟨_, step_reset hr, State.assertReset_blockReset _, ?_⟩, hpowerUp, rfl, rfl, rfl⟩
  simp

/-- Settles O45: `RESET` leaves a state that meets the invariant, and the state right after reset is the reset of
itself. -/
theorem resetMeetsTheInvariant : Obligations.ResetMeetsTheInvariant := by
  have hinv : State.reset.assertReset.Inv := assertReset_inv State.reset
  rwa [State.assertReset_reset] at hinv

end Sys2Proof.Machine
